-- ==== Sys2Proof/Word.lean ====
section
/-! DEFINITION. The widths and the two-valued types the spec names (00_scope.md R13, R15; 30_encoding.md R46, R48, R51). -/

namespace Sys2Proof

/-- An operand of the delay port: an unsigned 32-bit number of microseconds (00_scope.md R13, 40_commands.md R60). -/
abbrev Micros := BitVec 32

/-- The 32-bit container that holds one symbol (30_encoding.md R48). -/
abbrev Container := BitVec 32

/-- One byte of a pattern that reaches the block as UTF-8 (30_encoding.md R51). -/
abbrev Byte := BitVec 8

/-- The level of the output pin (00_scope.md R15). -/
inductive Level where
  | low
  | high
  deriving DecidableEq, Repr, Inhabited

/-- The result of a pin write or of a command (00_scope.md R15). -/
inductive Result where
  | ok
  | err
  deriving DecidableEq, Repr, Inhabited

end Sys2Proof
end

