-- ==== Sys2Proof/Config.lean ====
section
/-! DEFINITION. The configuration, fixed when the block is constructed (10_state.md R24, 00_scope.md R13), and the model's free
values: what the environment decides and no rule fixes (40_commands.md R65). -/

namespace Sys2Proof

/-- What the block does after a failed pin write (60_exceptions.md R84 to R86). -/
inductive FaultPolicy where
  | suppress
  | propagate
  deriving DecidableEq, Repr

/-- The configuration of the block: read-only for its lifetime (10_state.md R24). `maxSlack = none` is the unbounded
`MAX_SLACK_US` (70_reset_and_hazards.md R114). `boundPin` and `boundDelay` name the pin and the delay provider handed over at
construction; the spec gives them no number (60_exceptions.md R97), so nothing reads them. -/
structure Configuration where
  tPreHi : Micros
  tPreLo : Micros
  tOneHi : Micros
  tOneLo : Micros
  tZeroHi : Micros
  tZeroLo : Micros
  tGap : Micros
  faultPolicy : FaultPolicy
  pinFallible : Bool
  maxSlack : Option Nat
  boundPin : Nat
  boundDelay : Nat
  deriving DecidableEq, Repr

/-- The seven durations of 00_scope.md R13, with the OPEN parameters at the values of the test-vector convention
(95_test_vectors.md section 0). DESIGN CHOICE for `faultPolicy` and `pinFallible` (log 2, unsafe), `maxSlack` (log 3, safe),
`boundPin` and `boundDelay` (log 4, unsafe). -/
def Configuration.reference : Configuration where
  tPreHi := 1500
  tPreLo := 741
  tOneHi := 741
  tOneLo := 247
  tZeroHi := 247
  tZeroLo := 741
  tGap := 7000
  faultPolicy := .suppress
  pinFallible := false
  maxSlack := none
  boundPin := 0
  boundDelay := 0

/-- The pin port's answer to one write: OK, or ERR with the level the pin is left at (60_exceptions.md R82, R83). -/
inductive PinAnswer where
  | ok
  | err (after : Level)
  deriving DecidableEq, Repr, Inhabited

/-- The result the block sees of an answer (40_commands.md R58). -/
def PinAnswer.result : PinAnswer → Result
  | .ok => .ok
  | .err _ => .err

/-- FREE VALUE: the answer of a fallible pin port when State lists none (60_exceptions.md R82, R83; log 5). -/
opaque Config.freePinAnswer : Nat → PinAnswer

/-- FREE VALUE: how much longer than asked a wait may last when State lists no slack (70_reset_and_hazards.md R114; log 6). -/
opaque Config.freeSlack : Nat → Nat

end Sys2Proof
end

