-- ==== Sys2Proof/Syntax.lean ====
section
/-! DEFINITION. The instruction set: one constructor per row of spec/opcode_table.json, and the two encoding formats
(30_encoding.md R45 to R48, R52). A symbol is a Unicode scalar value, which is exactly Lean's `Char` (log 20). -/

namespace Sys2Proof

/-- One row of the opcode table each (30_encoding.md R52). -/
inductive Instr where
  /-- START: emit the preamble pulse (40_commands.md R66). -/
  | start
  /-- SEND: emit the pattern's pulses and the frame gap (40_commands.md R67). -/
  | send (pattern : List Char)
  /-- SYM_ONE: the symbol '1' (41_symbols.md R77). -/
  | symOne
  /-- SYM_ZERO: the symbol '0' (41_symbols.md R78). -/
  | symZero
  /-- SYM_SEP: any other symbol (41_symbols.md R79). -/
  | symSep (cp : Char)
  deriving DecidableEq, Repr

/-- The three symbol classes (30_encoding.md R49). -/
inductive SymClass where
  | one
  | zero
  | sep
  deriving DecidableEq, Repr

/-- A pattern as it reaches the host port: 32-bit containers (30_encoding.md R48), or a UTF-8 byte stream (R51). -/
inductive Operand where
  | scalars (ws : List Container)
  | bytes (bs : List Byte)
  deriving DecidableEq, Repr

/-- Format CMD: a 1-bit tag and the operand, which START ignores (30_encoding.md R46, 40_commands.md R62; log 11). -/
structure CmdWord where
  tag : BitVec 1
  operand : Operand
  deriving DecidableEq, Repr

/-- An encoded operation, in one of the two formats (30_encoding.md R45). -/
inductive Code where
  | cmd (c : CmdWord)
  | sym (w : Container)
  deriving DecidableEq, Repr

end Sys2Proof
end

