-- ==== Sys2Proof/WellFormed.lean ====
section
/-! DEFINITION. Which terms of `Instr` are instructions: a separator is any symbol other than '0' and '1' (30_encoding.md R49,
R52). Every pattern is a legal operand of SEND, whatever its length (40_commands.md R72). -/

namespace Sys2Proof

/-- The code points 0x31 and 0x30 of the data symbols (30_encoding.md R49; the code points are GK1 of
93_implementation_defined.md). -/
def isDataSymbol (c : Char) : Bool :=
  c.toNat == 0x31 || c.toNat == 0x30

def Instr.wellFormed : Instr → Bool
  | .start => true
  | .send _ => true
  | .symOne => true
  | .symZero => true
  | .symSep c => !isDataSymbol c

end Sys2Proof
end

