-- ==== Sys2Proof/Decode.lean ====
section
/-! DEFINITION. The decoder and the encoder, from 30_encoding.md R46 to R53. -/

namespace Sys2Proof

/-- Why a code is no instruction: a container that holds no scalar value cannot be formed as a symbol (30_encoding.md R48;
93_implementation_defined.md row 19, refuse; log 12). -/
inductive Reject where
  | notAScalarValue (w : Container)
  deriving DecidableEq, Repr

/-- Bits 31:21 of a container, always 0 (30_encoding.md R48). -/
def Container.zeroField (w : Container) : BitVec 11 := w.extractLsb' 21 11

/-- Bits 20:0 of a container, the code point (30_encoding.md R48). -/
def Container.cpField (w : Container) : BitVec 21 := w.extractLsb' 0 21

/-- Does the container hold a Unicode scalar value: 0x0 to 0x10FFFF but 0xD800 to 0xDFFF (30_encoding.md R48)? -/
def Container.isSymbol (w : Container) : Bool :=
  decide (Container.zeroField w = 0 ∧
    ((Container.cpField w).toNat < 0xD800 ∨
      (0xDFFF < (Container.cpField w).toNat ∧ (Container.cpField w).toNat ≤ 0x10FFFF)))

/-- The symbol a container holds. -/
def symbolOf (w : Container) : Option Char :=
  if Container.isSymbol w then some (Char.ofNat (Container.cpField w).toNat) else none

/-- The symbol class of a symbol: the two exact matches first, then the catch-all (30_encoding.md R49). -/
def symClass (c : Char) : SymClass :=
  if c.toNat = 0x31 then .one else if c.toNat = 0x30 then .zero else .sep

/-- The instruction a symbol stands for (30_encoding.md R49, R52): total (R50). -/
def symInstr (c : Char) : Instr :=
  match symClass c with
  | .one => .symOne
  | .zero => .symZero
  | .sep => .symSep c

/-- The symbol the byte front end makes of one byte: the byte's own value as a code point, so 0x31 and 0x30 are the data symbols
and every other byte is a separator (30_encoding.md R51; log 13). -/
def byteSymbol (b : Byte) : Char := Char.ofNat b.toNat

/-- The symbols of a list of containers. -/
def decodeScalars : List Container → Except Reject (List Char)
  | [] => .ok []
  | w :: ws =>
    match symbolOf w with
    | none => .error (.notAScalarValue w)
    | some c =>
      match decodeScalars ws with
      | .ok cs => .ok (c :: cs)
      | .error e => .error e

/-- The pattern an operand holds. -/
def decodeOperand : Operand → Except Reject (List Char)
  | .scalars ws => decodeScalars ws
  | .bytes bs => .ok (bs.map byteSymbol)

/-- The decoder: total, rejecting by name. Tag 0 is START, which has no operand, and tag 1 is SEND (30_encoding.md R46). -/
def decode : Code → Except Reject Instr
  | .cmd c =>
    if c.tag = 0 then .ok .start
    else
      match decodeOperand c.operand with
      | .ok p => .ok (.send p)
      | .error e => .error e
  | .sym w =>
    match symbolOf w with
    | some c => .ok (symInstr c)
    | none => .error (.notAScalarValue w)

/-- The container of a symbol: eleven zero bits and the code point (30_encoding.md R48). -/
def containerOf (c : Char) : Container := 0#11 ++ BitVec.ofNat 21 c.toNat

/-- The encoder, from the table of 30_encoding.md R52. -/
def encode : Instr → Code
  | .start => .cmd ⟨0, .scalars []⟩
  | .send p => .cmd ⟨1, .scalars (p.map containerOf)⟩
  | .symOne => .sym 0x00000031
  | .symZero => .sym 0x00000030
  | .symSep c => .sym (containerOf c)

/-- A row of the opcode map (30_encoding.md R52): its mnemonic, its format (`true` for CMD), its match and its mask. -/
structure OpcodeRow where
  mnemonic : String
  isCmd : Bool
  matchBits : BitVec 32
  mask : BitVec 32
  deriving DecidableEq, Repr

/-- The opcode map, in the order in which a decoder tries its rows (30_encoding.md R52). -/
def opcodeTable : List OpcodeRow :=
  [ ⟨"START", true, 0, 1⟩, ⟨"SEND", true, 1, 1⟩, ⟨"SYM_ONE", false, 0x31, 0xFFFFFFFF⟩,
    ⟨"SYM_ZERO", false, 0x30, 0xFFFFFFFF⟩, ⟨"SYM_SEP", false, 0, 0⟩ ]

/-- The bits a row is matched against: the tag of a command, the container of a symbol. -/
def Code.bits : Code → BitVec 32
  | .cmd c => c.tag.setWidth 32
  | .sym w => w

def OpcodeRow.fits (r : OpcodeRow) (c : Code) : Bool :=
  (match c with
    | .cmd _ => r.isCmd
    | .sym _ => !r.isCmd) && (c.bits &&& r.mask == r.matchBits)

/-- The first row that fits a code. -/
def rowOf (c : Code) : Option OpcodeRow := opcodeTable.find? (·.fits c)

/-- The mnemonic of an instruction (30_encoding.md R52). -/
def Instr.mnemonic : Instr → String
  | .start => "START"
  | .send _ => "SEND"
  | .symOne => "SYM_ONE"
  | .symZero => "SYM_ZERO"
  | .symSep _ => "SYM_SEP"

/-- A table word as a code (log 23): a row of at most one byte is a CMD, whose tag is bit 0 and whose pattern has no symbols; a row
of 32 bits is a SYM. -/
def codeOfTableWord (nbits w : Nat) : Option Code :=
  if 0 < nbits ∧ nbits ≤ 8 then some (.cmd ⟨BitVec.ofNat 1 w, .scalars []⟩)
  else if nbits = 32 then some (.sym (BitVec.ofNat 32 w))
  else none

/-- The instruction the decoder reads from a table word. -/
def decodeTableWord (nbits w : Nat) : Option Instr :=
  match codeOfTableWord nbits w with
  | some c =>
    match decode c with
    | .ok i => some i
    | .error _ => none
  | none => none

end Sys2Proof
end

