-- ==== Sys2Proof/Machine/State.lean ====
section
/-! DEFINITION. The state of the block (10_state.md), the stops of a step, and the state after construction
(70_reset_and_hazards.md R108, R109). -/

namespace Sys2Proof.Machine

/-- The control state (10_state.md R17). -/
inductive Mode where
  | idle
  | transmitting
  deriving DecidableEq, Repr

/-- The command being executed (10_state.md R18). -/
inductive Cmd where
  | none
  | start
  | send
  deriving DecidableEq, Repr

/-- The pattern store: the symbols of the current SEND, indexed from 0 (20_memory.md R29, R30). -/
abbrev Memory := List Char

/-- An observable event (00_scope.md R11): a pin write with its result, a wait, the return of a command. -/
inductive Event where
  | W (l : Level) (r : Result)
  | D (n : Micros)
  | R (r : Result)
  deriving DecidableEq, Repr

/-- One step of a command's step list (40_commands.md R63). -/
inductive Step where
  | W (l : Level)
  | D (n : Micros)
  deriving DecidableEq, Repr

/-- A span of the waveform on the pin: a wait at the level `pin` has when it is issued, with its nominal length and its real length
(10_state.md R21, 70_reset_and_hazards.md R114), or the host's time between commands (R116, R120). -/
inductive Span where
  | wait (level : Level) (nominal : Micros) (real : Nat)
  | idle (level : Level) (real : Nat)
  deriving DecidableEq, Repr

/-- What the host of a constructed block may do (60_exceptions.md R101): present a command or let time pass. It has no move that
writes the pin (R102), and none that calls the peripheral factory (R91; log 18). -/
inductive HostAct where
  | cmd (c : CmdWord)
  | pause (us : Nat)
  deriving DecidableEq, Repr

/-- The two fatal faults (60_exceptions.md R81, codes 2 and 3). -/
inductive BringUpFault where
  | peripheralAcquisition
  | doubleAcquisition
  deriving DecidableEq, Repr

/-- The steps 1 to 4 of 70_reset_and_hazards.md R112, each with its success. -/
inductive BootAct where
  | board (ok : Bool)
  | acquire (ok : Bool)
  | delay (ok : Bool)
  | pin (ok : Bool)
  deriving DecidableEq, Repr

/-- Which of these steps are done. -/
structure BootProgress where
  board : Bool
  handles : Bool
  delay : Bool
  pin : Bool
  deriving DecidableEq, Repr

/-- Power-on: none is done. -/
def BootProgress.powerOn : BootProgress := ⟨false, false, false, false⟩

/-- Bring-up with the steps still to come, the constructed block, or a system that bring-up halted (70_reset_and_hazards.md R112,
R113, 60_exceptions.md R87, R88; log 19). -/
inductive System where
  | booting (done : BootProgress) (todo : List BootAct)
  | running
  | halted (f : BringUpFault)
  deriving DecidableEq, Repr

/-- Why the machine stops with a fault. -/
inductive Fault where
  /-- Raised by every step of a system that bring-up halted (60_exceptions.md R87). Safe: the spec halts there. -/
  | peripheralAcquisition
  /-- Raised by every step of a system that a second call of the peripheral factory halted in bring-up (60_exceptions.md R88, R91).
  Safe: the spec halts there. -/
  | doubleAcquisition
  /-- Raised by a step at a position that no step list has (40_commands.md R64 gives no step there). Safe: no run reaches one
  (log 14). -/
  | sequencerLost
  /-- Raised by a read of the pattern store at an index it does not have (20_memory.md R32). Safe: no run makes one (log 14). -/
  | patternOutOfRange
  deriving DecidableEq, Repr

/-- Why the model gives a step no meaning. -/
inductive Refusal where
  /-- Raised by an arm of `exec` that has no meaning yet. Safe. No arm raises it. -/
  | notModelled (mnemonic : String)
  /-- Raised by a host command whose pattern has a container that cannot be formed as a symbol (30_encoding.md R48,
  93_implementation_defined.md row 19). Safe (log 12). -/
  | notAScalarValue (w : Container)
  /-- Raised by a symbol operation when no SEND runs: only SEND executes symbols (20_memory.md R29). Safe: no step does it (log 15). -/
  | symbolOutsideSend
  deriving DecidableEq, Repr

/-- The whole state. `mode`, `cmd`, `pc`, `pattern`, `pin`, `trace` and `cfg` are the table of 10_state.md; `symIdx` is the index of
the next MemRead (40_commands.md R75; log 7); `wave` is the pin's waveform with its real lengths; `system` says whether
bring-up still runs, the block is constructed, or a fatal fault halted bring-up. The last four fields are the MODEL's: the inputs still to come from the host, the pin port and the delay
port, and the number of free values used (logs 5, 6, 9). -/
structure State where
  system : System
  cfg : Configuration
  mode : Mode
  cmd : Cmd
  pc : Nat
  pattern : Memory
  symIdx : Nat
  pin : Level
  trace : List Event
  wave : List Span
  host : List HostAct
  answers : List PinAnswer
  slacks : List Nat
  draws : Nat
  deriving DecidableEq, Repr

/-- The state right after construction: construction checks nothing, emits no event, and does not write the pin
(70_reset_and_hazards.md R108, R109). -/
def State.construct (cfg : Configuration) (pinInit : Level) : State where
  system := .running
  cfg := cfg
  mode := .idle
  cmd := .none
  pc := 0
  pattern := []
  symIdx := 0
  pin := pinInit
  trace := []
  wave := []
  host := []
  answers := []
  slacks := []
  draws := 0

/-- The machine right after reset. DESIGN CHOICE: PIN_INIT = LOW (log 1, unsafe), and the OPEN parameters of
`Configuration.reference` (logs 2, 3, 4). -/
def State.reset : State := State.construct Configuration.reference .low

/-- The outcomes of a step of this machine. -/
abbrev Outcome := Host.Outcome State Fault Refusal

end Sys2Proof.Machine
end

