-- ==== Sys2Proof/Machine/Flags.lean ====
section
/-! DEFINITION. The only status of the block: the result of each command's R event. There are no flags and no condition codes
(10_state.md R23). -/

namespace Sys2Proof.Machine

/-- The result of a command that runs to the end of its step list (40_commands.md R64). -/
def statusOnReturn : Result := .ok

/-- The result with which a failed pin write ends its command, if it ends it: PROPAGATE does, SUPPRESS does not (10_state.md R23,
60_exceptions.md R84, R85). -/
def statusOnPinFault : FaultPolicy → Option Result
  | .suppress => none
  | .propagate => some .err

/-- The numeric codes of the fault classes 2 and 3 (60_exceptions.md R81). -/
def BringUpFault.code : BringUpFault → Nat
  | .peripheralAcquisition => 2
  | .doubleAcquisition => 3

/-- The numeric code of PIN_WRITE_FAULT (60_exceptions.md R81). -/
def pinWriteFaultCode : Nat := 1

/-- The stop of a halted system (60_exceptions.md R87, R88). -/
def BringUpFault.stop : BringUpFault → Fault
  | .peripheralAcquisition => .peripheralAcquisition
  | .doubleAcquisition => .doubleAcquisition

end Sys2Proof.Machine
end

