-- ==== Sys2Proof/Machine/Operands.lean ====
section
/-! DEFINITION. The operand forms: the pattern store and its read, the step list of each symbol and command (40_commands.md R63,
41_symbols.md R77 to R79), and the position in it. -/

namespace Sys2Proof.Machine

/-- `MemRead(i, 1)`: the symbol at index i, where the store has one (20_memory.md R29, R35, 40_commands.md R75). -/
def Memory.read (m : Memory) (i : Nat) : Option Char := m[i]?

/-- Every element of the store is a Unicode scalar value, in a container whose bits 31:21 are zero (30_encoding.md R48). -/
def Memory.wf (m : Memory) : Bool := m.all fun c => Container.isSymbol (containerOf c)

/-- The step list a symbol class contributes (41_symbols.md R77, R78, R79). -/
def symSteps (cfg : Configuration) : SymClass → List Step
  | .one => [.W .high, .D cfg.tOneHi, .W .low, .D cfg.tOneLo]
  | .zero => [.W .high, .D cfg.tZeroHi, .W .low, .D cfg.tZeroLo]
  | .sep => []

/-- The steps of a pattern's symbols, left to right (40_commands.md R63). -/
def patternSteps (cfg : Configuration) (p : List Char) : List Step :=
  p.flatMap fun c => symSteps cfg (symClass c)

/-- The frame gap (40_commands.md R68). -/
def gapSteps (cfg : Configuration) : List Step := [.D cfg.tGap]

/-- `Expand(START)` (40_commands.md R63). -/
def startSteps (cfg : Configuration) : List Step :=
  [.W .high, .D cfg.tPreHi, .W .low, .D cfg.tPreLo]

/-- `Expand(SEND(P))` (40_commands.md R63). -/
def sendSteps (cfg : Configuration) (p : List Char) : List Step :=
  patternSteps cfg p ++ gapSteps cfg

/-- `Expand(cmd)` of the command in progress (40_commands.md R63). -/
def State.expand (s : State) : List Step :=
  match s.cmd with
  | .none => []
  | .start => startSteps s.cfg
  | .send => sendSteps s.cfg s.pattern

/-- How many steps the symbols before index `symIdx` have taken: the step index at which the current symbol begins. -/
def State.symBase (s : State) : Nat := (patternSteps s.cfg (s.pattern.take s.symIdx)).length

/-- Is a SEND in progress? -/
def State.sending (s : State) : Bool := s.mode == .transmitting && s.cmd == .send

/-- A host command is one the decoder accepts. -/
def CmdWord.decodes (c : CmdWord) : Bool :=
  match decode (.cmd c) with
  | .ok _ => true
  | .error _ => false

end Sys2Proof.Machine
end

