-- ==== Sys2Proof/Machine/Ops.lean ====
section
/-! DEFINITION. The named operations over the state: its elementary updates, the draws of the environment, the two port primitives
(40_commands.md R58, R60), acceptance and return (R62, R64), and the one exception, the pin-write fault (60_exceptions.md R82 to
R86). There is no return from an exception: the block has none (60_exceptions.md R93). -/

namespace Sys2Proof.Machine

/-! ## Elementary updates -/

/-- `emit(e)` (00_scope.md R15). -/
def State.emit (s : State) (e : Event) : State := { s with trace := s.trace ++ [e] }

/-- `pc <- pc + 1` (10_state.md R18). -/
def State.advance (s : State) : State := { s with pc := s.pc + 1 }

/-- One more symbol is consumed (40_commands.md R75). -/
def State.nextSymbol (s : State) : State := { s with symIdx := s.symIdx + 1 }

/-- `pin <- l` (40_commands.md R58). -/
def State.setPin (s : State) (l : Level) : State := { s with pin := l }

/-- One more span of the waveform (10_state.md R21). -/
def State.addSpan (s : State) (x : Span) : State := { s with wave := s.wave ++ [x] }

/-- The host's oldest act is done. -/
def State.popHost (s : State) : State := { s with host := s.host.tail }

/-- Bring-up goes on, constructs the block, or halts (70_reset_and_hazards.md R112, R113). -/
def State.setSystem (s : State) (x : System) : State := { s with system := x }

/-- The oldest answer of the pin port is used. -/
def State.popAnswer (s : State) : State := { s with answers := s.answers.tail }

/-- The oldest slack is used. -/
def State.popSlack (s : State) : State := { s with slacks := s.slacks.tail }

/-- One more free value is used. -/
def State.countDraw (s : State) : State := { s with draws := s.draws + 1 }

/-- `mode <- IDLE; cmd <- NONE; pc <- 0; P <- []` (40_commands.md R64), and no symbol is consumed. -/
def State.toIdle (s : State) : State :=
  { s with mode := .idle, cmd := .none, pc := 0, pattern := [], symIdx := 0 }

/-- `Accept(c)`: one indivisible transition, without event (40_commands.md R62). -/
def State.accept (s : State) (c : Cmd) (p : List Char) : State :=
  { s with mode := .transmitting, cmd := c, pc := 0, pattern := p, symIdx := 0, host := s.host.tail }

/-! ## The draws of the environment -/

/-- `PinResult()` and `PinLevelAfterFault()` together: OK when the pin is infallible, else the port's next answer, else a free
value (40_commands.md R58, 60_exceptions.md R82, R83; log 5). -/
def State.pinAnswer (s : State) : PinAnswer :=
  if s.cfg.pinFallible then
    match s.answers with
    | a :: _ => a
    | [] => Config.freePinAnswer s.draws
  else .ok

/-- The state after that draw. -/
def State.afterPinAnswer (s : State) : State :=
  if s.cfg.pinFallible then
    match s.answers with
    | _ :: _ => s.popAnswer
    | [] => s.countDraw
  else s

/-- A slack held within the bound `MAX_SLACK_US`, where there is one (70_reset_and_hazards.md R114). -/
def boundSlack : Option Nat → Nat → Nat
  | none, x => x
  | some m, x => min x m

/-- How much longer than asked the next wait lasts: the next slack, else a free value, within the bound (70_reset_and_hazards.md
R114; log 6). -/
def State.slack (s : State) : Nat :=
  boundSlack s.cfg.maxSlack
    (match s.slacks with
      | x :: _ => x
      | [] => Config.freeSlack s.draws)

/-- The state after that draw. -/
def State.afterSlack (s : State) : State :=
  match s.slacks with
  | _ :: _ => s.popSlack
  | [] => s.countDraw

/-! ## The ports -/

/-- `PinWrite(l)` (40_commands.md R58): the write is issued whatever the level of the pin (20_memory.md R36). -/
def State.pinWrite (s : State) (l : Level) : Result × State :=
  match s.pinAnswer with
  | .ok => (.ok, (s.afterPinAnswer.emit (.W l .ok)).setPin l)
  | .err x => (.err, (s.afterPinAnswer.emit (.W l .err)).setPin x)

/-- `Wait_us(n)` (40_commands.md R60): the event, and the span of the waveform at the level the pin has, which really lasts at least
n (70_reset_and_hazards.md R114). -/
def State.waitUs (s : State) (n : Micros) : State :=
  (s.afterSlack.emit (.D n)).addSpan (.wait s.pin n (n.toNat + s.slack))

/-! ## Return and exception -/

/-- The return of a command with result r (40_commands.md R64). -/
def State.endCommand (s : State) (r : Result) : State := (s.emit (.R r)).toIdle

/-- The information of a pin-write fault: the requested level and the step index (60_exceptions.md R82). -/
structure PinWriteFault where
  level : Level
  step : Nat
  deriving DecidableEq, Repr

/-- `raise PinWriteFault(info)`: TAKING THE EXCEPTION. No state is saved and nothing is vectored (60_exceptions.md R92). SUPPRESS
goes on with the next step (R84); PROPAGATE ends the command with R(ERR) (R85). The information stays readable in the trace
(log 21). -/
def State.raisePinFault (s : State) (_info : PinWriteFault) : State :=
  match statusOnPinFault s.cfg.faultPolicy with
  | none => s.advance
  | some r => s.endCommand r

/-- One step of a step list (40_commands.md R64). -/
def State.takeStep (s : State) : Step → State
  | .W l =>
    match s.pinWrite l with
    | (.ok, t) => t.advance
    | (.err, t) => t.raisePinFault ⟨l, s.pc⟩
  | .D n => (s.waitUs n).advance

/-- The step at the sequencer position, from a list that begins at step index `base`: none where the list has no such step. -/
def State.stepFrom (s : State) (base : Nat) (steps : List Step) : Option State :=
  if base ≤ s.pc then
    match steps[s.pc - base]? with
    | some st => some (s.takeStep st)
    | none => none
  else none

/-- A position that no step list has stops the machine by name (log 14). -/
def outcomeOf : Option State → Outcome
  | some t => .next t
  | none => .fault .sequencerLost

/-- The rest of a command's step list that begins at `base`: its next step, or the return after its last one (40_commands.md
R64). -/
def State.stepOrReturn (s : State) (base : Nat) (steps : List Step) : Outcome :=
  if s.pc = base + steps.length then .next (s.endCommand statusOnReturn)
  else outcomeOf (s.stepFrom base steps)

/-- The next step of the current data symbol; its last step consumes the symbol (40_commands.md R63, R75). Symbols run inside SEND
only (log 15). -/
def State.symbolStep (s : State) (c : SymClass) : Outcome :=
  if s.sending then
    match s.stepFrom s.symBase (symSteps s.cfg c) with
    | some t =>
      if s.pc + 1 = s.symBase + (symSteps s.cfg c).length then .next t.nextSymbol else .next t
    | none => .fault .sequencerLost
  else .refused .symbolOutsideSend

end Sys2Proof.Machine
end

