-- ==== Sys2Proof/Machine/Boot.lean ====
section
/-! DEFINITION. Bring-up, only as far as the block's boundary shows it: its steps, its two fatal faults, and the construction that
ends it (70_reset_and_hazards.md R112, R113, 60_exceptions.md R87, R88, R91; logs 18, 19). -/

namespace Sys2Proof.Machine

/-- Are the steps 1 to 4 of 70_reset_and_hazards.md R112 all done? -/
def BootProgress.done (b : BootProgress) : Bool := b.board && b.handles && b.delay && b.pin

/-- One step of bring-up: a failure is fatal (70_reset_and_hazards.md R113), and so is a second call of the factory
(60_exceptions.md R88). -/
def BootProgress.act (b : BootProgress) : BootAct → Except BringUpFault BootProgress
  | .board ok => if ok then .ok { b with board := true } else .error .peripheralAcquisition
  | .acquire ok =>
    if b.handles then .error .doubleAcquisition
    else if ok then .ok { b with handles := true } else .error .peripheralAcquisition
  | .delay ok => if ok then .ok { b with delay := true } else .error .peripheralAcquisition
  | .pin ok => if ok then .ok { b with pin := true } else .error .peripheralAcquisition

/-- What the system becomes by one transition of bring-up. After the last step comes construction (70_reset_and_hazards.md R112),
which checks nothing, emits nothing and writes nothing (R109); without all steps done there is none. -/
def BootProgress.next (b : BootProgress) : List BootAct → System
  | [] => if b.done then .running else .booting b []
  | a :: rest =>
    match b.act a with
    | .ok b' => .booting b' rest
    | .error f => .halted f

/-- Power-on, with the steps of bring-up to come. The other fields already hold what construction leaves in them; until then no
block exists and nothing reads them (log 19). -/
def State.powerOn (cfg : Configuration) (pinInit : Level) (acts : List BootAct) : State :=
  (State.construct cfg pinInit).setSystem (.booting BootProgress.powerOn acts)

end Sys2Proof.Machine
end

