-- ==== Sys2Proof/Machine/Symbols.lean ====
section
/-! DEFINITION. The family of symbol operations: SYM_ONE, SYM_ZERO, SYM_SEP (41_symbols.md). -/

namespace Sys2Proof.Machine

/-- SYM_ONE: the next step of `W(HIGH) D(T_ONE_HI) W(LOW) D(T_ONE_LO)` (41_symbols.md R77). -/
def execSymOne (s : State) : Outcome := s.symbolStep .one

/-- SYM_ZERO: the next step of `W(HIGH) D(T_ZERO_HI) W(LOW) D(T_ZERO_LO)` (41_symbols.md R78). -/
def execSymZero (s : State) : Outcome := s.symbolStep .zero

/-- SYM_SEP: no pin write, no wait; the symbol is consumed (41_symbols.md R79). -/
def execSymSep (_cp : Char) (s : State) : Outcome :=
  if s.sending then .next s.nextSymbol else .refused .symbolOutsideSend

end Sys2Proof.Machine
end

