-- ==== Sys2Proof/Machine/Commands.lean ====
section
/-! DEFINITION. The family of commands: START and SEND (40_commands.md). A meaning is ONE transition of its command: the acceptance
while IDLE (R62), then one step of the step list or the return (R64). A command presented while another runs is not accepted and
changes nothing: the host waits (R62; log 16). -/

namespace Sys2Proof.Machine

/-- START (40_commands.md R66). -/
def execStart (s : State) : Outcome :=
  match s.mode with
  | .idle => .next (s.accept .start [])
  | .transmitting => if s.cmd = .start then s.stepOrReturn 0 (startSteps s.cfg) else .next s

/-- The end of a SEND, after its last symbol: the frame gap, then the return (40_commands.md R67, R68). -/
def sendTail (s : State) : Outcome :=
  s.stepOrReturn (patternSteps s.cfg s.pattern).length (gapSteps s.cfg)

/-- The next step of a SEND: read the symbol at the symbol index and run it, separators in passing, as they take no step
(40_commands.md R67, 41_symbols.md R79; log 8). The number is how many symbols are left. -/
def sendLoop : Nat → State → Outcome
  | 0, s => sendTail s
  | n + 1, s =>
    match s.pattern.read s.symIdx with
    | none => .fault .patternOutOfRange
    | some c =>
      match symClass c with
      | .one => execSymOne s
      | .zero => execSymZero s
      | .sep =>
        match execSymSep c s with
        | .next t => sendLoop n t
        | .fault f => .fault f
        | .refused r => .refused r

/-- SEND (40_commands.md R67). The pattern is snapshotted at acceptance (20_memory.md R31); while SEND runs it is the snapshot that
is read. -/
def execSend (p : List Char) (s : State) : Outcome :=
  match s.mode with
  | .idle => .next (s.accept .send p)
  | .transmitting => if s.cmd = .send then sendLoop (s.pattern.length - s.symIdx) s else .next s

end Sys2Proof.Machine
end

