-- ==== Sys2Proof/Machine/Dispatch.lean ====
section
/-! DEFINITION. Which meaning each instruction has: one arm per constructor. -/

namespace Sys2Proof.Machine

def exec (i : Instr) (s : State) : Host.Outcome State Fault Refusal :=
  match i with
  | .start => Sys2Proof.Machine.execStart s
  | .send p => Sys2Proof.Machine.execSend p s
  | .symOne => Sys2Proof.Machine.execSymOne s
  | .symZero => Sys2Proof.Machine.execSymZero s
  | .symSep cp => Sys2Proof.Machine.execSymSep cp s

end Sys2Proof.Machine
end

