-- ==== Sys2Proof/Machine/Sequencer.lean ====
section
/-! DEFINITION. What the next transition of the machine is (40_commands.md R62, R64, 60_exceptions.md R87, R101). -/

namespace Sys2Proof.Machine

/-- While IDLE the host acts: a command is decoded and accepted (40_commands.md R62); a pause adds idle time at the pin's level
(70_reset_and_hazards.md R116, R120; log 17). With nothing to do the block stays as it is (log 10). -/
def hostTransition (s : State) : Outcome :=
  match s.host with
  | [] => .next s
  | .cmd c :: _ =>
    match decode (.cmd c) with
    | .ok i => exec i s
    | .error (.notAScalarValue w) => .refused (.notAScalarValue w)
  | .pause t :: _ => .next (s.addSpan (.idle s.pin t)).popHost

/-- One transition: bring-up goes on, and changes nothing but the system (70_reset_and_hazards.md R112, R113); a halted system stops
(60_exceptions.md R87, R88); an IDLE block turns to the host; a TRANSMITTING one goes on
with its command (40_commands.md R64) and takes nothing from the host port. -/
def transition (s : State) : Outcome :=
  match s.system with
  | .booting b acts => .next (s.setSystem (b.next acts))
  | .halted f => .fault f.stop
  | .running =>
    match s.mode with
    | .idle => hostTransition s
    | .transmitting =>
      match s.cmd with
      | .none => .fault .sequencerLost
      | .start => exec .start s
      | .send => exec (.send s.pattern) s

/-- The state in which the next transition runs a code: a command at the host port of an IDLE block, or a symbol as the whole
pattern of a SEND that was just accepted. A container that holds no scalar value can only reach the block in a command (log 9). -/
def State.withCode (s : State) : Code → State
  | .cmd c => { s.toIdle with system := .running, host := .cmd c :: s.host }
  | .sym w =>
    match symbolOf w with
    | some c =>
      { s with system := .running, mode := .transmitting, cmd := .send, pc := 0, pattern := [c], symIdx := 0 }
    | none => { s.toIdle with system := .running, host := .cmd ⟨1, .scalars [w]⟩ :: s.host }

end Sys2Proof.Machine
end

