-- ==== Sys2Proof/Machine/Step.lean ====
section
/-! DEFINITION. One step of the machine. -/

namespace Sys2Proof.Machine

/-- One transition of the machine (40_commands.md R62, R64). -/
def step (s : State) : Host.Outcome State Fault Refusal := transition s

/-- The state in which the next step runs a table word (logs 9, 23). A word of no format leaves the state as it is. -/
def State.withFetchWord (s : State) (nbits w : Nat) : State :=
  match codeOfTableWord nbits w with
  | some c => s.withCode c
  | none => s

end Sys2Proof.Machine
end

