-- ==== Sys2Proof/Machine/Views.lean ====
section
/-! DEFINITION. What the spec reads off the traces: the level trace (10_state.md R21), the recorded pin-write faults
(60_exceptions.md R81, R82), nominal times (40_commands.md R70), the normal form of a pattern (30_encoding.md R57), UTF-8
(20_memory.md R33), and the reference host's burst (30_encoding.md R56, 60_exceptions.md R104). No transition uses these. -/

namespace Sys2Proof.Machine

/-- The segment of a span: waits only (10_state.md R21). -/
def Span.segment : Span → Option (Level × Micros)
  | .wait l n _ => some (l, n)
  | .idle _ _ => none

/-- The level trace (10_state.md R21). -/
def levelTrace (wave : List Span) : List (Level × Micros) := wave.filterMap Span.segment

/-- The event of a step whose port answers OK (00_scope.md R11). -/
def Step.okEvent : Step → Event
  | .W l => .W l .ok
  | .D n => .D n

/-- An event without its OK/ERR mark on a pin write (60_exceptions.md R84). -/
def Event.unmarked : Event → Event
  | .W l _ => .W l .ok
  | .D n => .D n
  | .R r => .R r

/-- Is the event a failed pin write? -/
def Event.isPinFault : Event → Bool
  | .W _ .err => true
  | _ => false

/-- Is the event the return of a command with ERR? -/
def Event.isErrReturn : Event → Bool
  | .R .err => true
  | _ => false

/-- How many steps the command in progress has taken, from the number so far: every step is one W or D event, and R ends a command
(40_commands.md R64). -/
def stepsSinceReturn : Nat → List Event → Nat
  | k, [] => k
  | k, .W _ _ :: es => stepsSinceReturn (k + 1) es
  | k, .D _ :: es => stepsSinceReturn (k + 1) es
  | _, .R _ :: es => stepsSinceReturn 0 es

/-- The pin-write faults a trace records, with requested level and step index (60_exceptions.md R81, R82), from a step index on. -/
def pinFaultsFrom : Nat → List Event → List PinWriteFault
  | _, [] => []
  | k, .W _ .ok :: es => pinFaultsFrom (k + 1) es
  | k, .W l .err :: es => ⟨l, k⟩ :: pinFaultsFrom (k + 1) es
  | k, .D _ :: es => pinFaultsFrom (k + 1) es
  | _, .R _ :: es => pinFaultsFrom 0 es

/-- The pin-write faults a whole trace records. -/
def pinFaults (es : List Event) : List PinWriteFault := pinFaultsFrom 0 es

/-- The last pin write of a trace: its level and its result. -/
def lastWrite : List Event → Option (Level × Result)
  | [] => none
  | e :: es =>
    match lastWrite es with
    | some x => some x
    | none =>
      match e with
      | .W l r => some (l, r)
      | .D _ => none
      | .R _ => none

/-- The nominal length of a step: a pin write takes none (40_commands.md R59). -/
def Step.nominal : Step → Nat
  | .W _ => 0
  | .D n => n.toNat

/-- The nominal time of a step list, a sum over unbounded natural numbers (40_commands.md R70). -/
def nominalTime (steps : List Step) : Nat := (steps.map Step.nominal).sum

/-- How many times a symbol class occurs in a pattern: the spec's n1 and n0 (40_commands.md R63). -/
def countClass (k : SymClass) (p : List Char) : Nat := p.countP fun c => symClass c == k

/-- The subsequence of the data symbols: the normal form of a pattern (30_encoding.md R57). -/
def dataSymbols (p : List Char) : List Char := p.filter isDataSymbol

/-- The UTF-8 bytes of a symbol (20_memory.md R33, R54 and GK2 of 93_implementation_defined.md: PRESUMED, general knowledge; log 13). -/
def utf8 (c : Char) : List Byte :=
  if c.toNat < 0x80 then [BitVec.ofNat 8 c.toNat]
  else if c.toNat < 0x800 then
    [BitVec.ofNat 8 (0xC0 + c.toNat / 0x40), BitVec.ofNat 8 (0x80 + c.toNat % 0x40)]
  else if c.toNat < 0x10000 then
    [BitVec.ofNat 8 (0xE0 + c.toNat / 0x1000), BitVec.ofNat 8 (0x80 + c.toNat / 0x40 % 0x40),
      BitVec.ofNat 8 (0x80 + c.toNat % 0x40)]
  else
    [BitVec.ofNat 8 (0xF0 + c.toNat / 0x40000), BitVec.ofNat 8 (0x80 + c.toNat / 0x1000 % 0x40),
      BitVec.ofNat 8 (0x80 + c.toNat / 0x40 % 0x40), BitVec.ofNat 8 (0x80 + c.toNat % 0x40)]

/-- The UTF-8 bytes of a pattern. -/
def utf8Pattern (p : List Char) : List Byte := p.flatMap utf8

/-- START and SEND as host acts, with the pattern as containers. -/
def startAct : HostAct := .cmd ⟨0, .scalars []⟩

def sendAct (p : List Char) : HostAct := .cmd ⟨1, .scalars (p.map containerOf)⟩

/-- The pseudo-operation MESSAGE(P, N) (30_encoding.md R56): host policy. -/
def message (p : List Char) (n : Nat) : List HostAct := startAct :: List.replicate n (sendAct p)

/-- The source's concrete frame (30_encoding.md R55), group by group. -/
def referenceFrame : List Char :=
  ['1', ' ', '0', '0', '0', ' ', '0', '0', '0', '1', ' '] ++
  ['0', '0', '1', '1', '0', '1', '0', '1', '0', '0', '1', '0', '0', '0', '1', '0', '0', ' '] ++
  ['0', '0', '0', '0', '0', '0', '1', ' ', '0', '1', '1', '1', ' ', '1', '1', '1', ' ', '0', '0']

/-- The reference host's burst (60_exceptions.md R104). -/
def referenceBurst : List HostAct := message referenceFrame 5

end Sys2Proof.Machine
end

