-- ==== Sys2Proof/Safety.lean ====
section
/-! DEFINITION. Runs, and what a sound state is: the terms in which claims are stated. -/

namespace Sys2Proof.Machine

/-- `n` steps, ending at the first stop. -/
def stepN : Nat → State → Outcome
  | 0, s => .next s
  | n + 1, s =>
    match step s with
    | .next t => stepN n t
    | .fault f => .fault f
    | .refused r => .refused r

/-- How many steps a symbol's step list has. -/
def symWidth (c : Char) : Nat :=
  match symClass c with
  | .one => 4
  | .zero => 4
  | .sep => 0

/-- The invariant of the sequencer position (10_state.md R17 to R19): IDLE goes with NONE, 0 and an empty pattern; in START the step
index is in the step list or at its end; in SEND it lies within the steps of the symbol at the symbol index, and after the last
symbol it is at the gap or at the return. -/
def State.Inv (s : State) : Prop :=
  match s.mode, s.cmd with
  | .idle, .none => s.pc = 0 ∧ s.pattern = [] ∧ s.symIdx = 0
  | .transmitting, .start => s.pattern = [] ∧ s.symIdx = 0 ∧ s.pc ≤ 4
  | .transmitting, .send =>
    s.symIdx ≤ s.pattern.length ∧ s.symBase ≤ s.pc ∧
      match s.pattern[s.symIdx]? with
      | some c => s.pc < s.symBase + max 1 (symWidth c)
      | none => s.pc ≤ s.symBase + 1
  | .idle, .start => False
  | .idle, .send => False
  | .transmitting, .none => False

/-- A span's real length obeys the bounds of 70_reset_and_hazards.md R114. -/
def Span.withinBounds (cfg : Configuration) : Span → Prop
  | .wait _ n t => n.toNat ≤ t ∧ ∀ m, cfg.maxSlack = some m → t ≤ n.toNat + m
  | .idle _ _ => True

/-- A host act the block can take: a command its decoder accepts, or a pause. -/
def HostAct.proper : HostAct → Bool
  | .cmd c => CmdWord.decodes c
  | .pause _ => true

/-- What a pin write of level l does as one step, in one record: R64 of 40_commands.md with R58, and R84 or R85 of 60_exceptions.md
after ERR. -/
def State.afterWrite (s : State) (l : Level) : State :=
  match s.pinAnswer with
  | .ok => { s.afterPinAnswer with trace := s.trace ++ [.W l .ok], pin := l, pc := s.pc + 1 }
  | .err x =>
    match s.cfg.faultPolicy with
    | .suppress => { s.afterPinAnswer with trace := s.trace ++ [.W l .err], pin := x, pc := s.pc + 1 }
    | .propagate =>
      { s.afterPinAnswer with
        trace := s.trace ++ [.W l .err, .R .err], pin := x,
        mode := .idle, cmd := .none, pc := 0, pattern := [], symIdx := 0 }

/-- What a wait of n microseconds does as one step, in one record: R64 with R60 of 40_commands.md and R114 of
70_reset_and_hazards.md. -/
def State.afterWait (s : State) (n : Micros) : State :=
  { s.afterSlack with
    trace := s.trace ++ [.D n], wave := s.wave ++ [.wait s.pin n (n.toNat + s.slack)], pc := s.pc + 1 }

/-- What either step does. -/
def State.afterStep (s : State) : Step → State
  | .W l => s.afterWrite l
  | .D n => s.afterWait n

/-- What the return of a command that met no fault it must report does (40_commands.md R64). -/
def State.afterReturn (s : State) : State :=
  { s with
    trace := s.trace ++ [.R .ok],
    mode := .idle, cmd := .none, pc := 0, pattern := [], symIdx := 0 }

/-- The segments of the level trace that a symbol adds when its writes succeed (41_symbols.md R77 to R79). -/
def symSegments (cfg : Configuration) (c : Char) : List (Level × Micros) :=
  match symClass c with
  | .one => [(.high, cfg.tOneHi), (.low, cfg.tOneLo)]
  | .zero => [(.high, cfg.tZeroHi), (.low, cfg.tZeroLo)]
  | .sep => []

/-- A host command and the step list it runs (40_commands.md R63). -/
inductive CommandSteps (cfg : Configuration) : HostAct → List Step → Prop where
  | start : CommandSteps cfg startAct (startSteps cfg)
  | send (p : List Char) : CommandSteps cfg (sendAct p) (sendSteps cfg p)

/-- The block is idle, running, and has just this act before the others. -/
def State.presented (s : State) (a : HostAct) (rest : List HostAct) : Prop :=
  s.system = .running ∧ s.mode = .idle ∧ s.host = a :: rest

/-- The next n pin writes succeed: the pin is infallible, or its answers begin with n times OK (60_exceptions.md R82). -/
def State.writesSucceed (s : State) (n : Nat) : Prop :=
  s.cfg.pinFallible = true → ∃ more, s.answers = List.replicate n .ok ++ more

/-- Is the step a pin write? -/
def Step.isWrite : Step → Bool
  | .W _ => true
  | .D _ => false

/-- The nominal time a step list spends at a level, when it begins at a level and every write succeeds (40_commands.md R70). -/
def levelTime (want : Level) : Level → List Step → Nat
  | _, [] => 0
  | _, .W l :: rest => levelTime want l rest
  | l, .D n :: rest => (if l = want then n.toNat else 0) + levelTime want l rest

/-- A safe outcome: neither a fault nor a refusal. -/
def Safe (o : Outcome) : Prop := ∃ t, o = .next t

end Sys2Proof.Machine
end

