-- ==== Sys2Proof/Certificates/Slice0/Obligations.lean ====
section
/-! DEFINITION. The statements about the model, in the order of OBLIGATIONS.json. -/

open Sys2Proof
open Sys2Proof.Machine

/-! ## Encoding -/

/-- Words written out from the encodings of 30_encoding.md R46, R48, R51 and R52 decode to the instructions they stand for. In the
last one, R51 makes byte 0x20 a separator; that it is the symbol of the same number, the space, is the model's choice (log 13). -/
def Obligations.WrittenWordsDecode : Prop :=
  decode (.sym 0b00000000000000000000000000110001#32) = .ok .symOne ∧
  decode (.sym 0b00000000000000000000000000110000#32) = .ok .symZero ∧
  decode (.sym 0b00000000000000000000000000100000#32) = .ok (.symSep ' ') ∧
  decode (.sym 0x00000131#32) = .ok (.symSep (Char.ofNat 0x131)) ∧
  decode (.cmd ⟨0b0#1, .scalars []⟩) = .ok .start ∧
  decode (.cmd ⟨0b1#1, .scalars []⟩) = .ok (.send []) ∧
  decode (.cmd ⟨0b1#1, .scalars [0x00000031#32, 0x00000030#32]⟩) = .ok (.send ['1', '0']) ∧
  decode (.cmd ⟨0b1#1, .bytes [0x31#8, 0x20#8, 0x30#8]⟩) = .ok (.send ['1', ' ', '0'])

/-- Decoding the encoding of a well-formed instruction gives it back, for every instruction and every operand (30_encoding.md
sections 1 to 3). -/
def Obligations.DecodeOfEncodeIsTheInstruction : Prop :=
  ∀ i : Instr, i.wellFormed = true → decode (encode i) = .ok i

/-- 30_encoding.md R49: the class of a symbol, for every Unicode scalar value. -/
def Obligations.SymbolDecodesByCodePoint : Prop :=
  ∀ c : Char, decode (.sym (containerOf c)) =
    .ok (if c.toNat = 0x31 then .symOne else if c.toNat = 0x30 then .symZero else .symSep c)

/-- 30_encoding.md R48: the containers that are symbols are those whose bits 31:21 are zero and whose code point is a scalar value;
no other one decodes. -/
def Obligations.OnlyScalarContainersDecode : Prop :=
  ∀ w : Container, (∃ i, decode (.sym w) = .ok i) ↔
    (w.extractLsb' 21 11 = 0 ∧
      ((w.extractLsb' 0 21).toNat < 0xD800 ∨
        (0xDFFF < (w.extractLsb' 0 21).toNat ∧ (w.extractLsb' 0 21).toNat ≤ 0x10FFFF)))

/-- 30_encoding.md R52: the decoder follows the opcode map, whose first fitting row names the instruction. -/
def Obligations.DecoderTakesTheFirstFittingRow : Prop :=
  opcodeTable.map (fun r => (r.mnemonic, r.isCmd, r.matchBits, r.mask)) =
    [ ("START", true, 0b0#32, 0b1#32), ("SEND", true, 0b1#32, 0b1#32),
      ("SYM_ONE", false, 0x00000031#32, 0xFFFFFFFF#32), ("SYM_ZERO", false, 0x00000030#32, 0xFFFFFFFF#32),
      ("SYM_SEP", false, 0x00000000#32, 0x00000000#32) ] ∧
  ∀ c i, decode c = .ok i → ∃ r, rowOf c = some r ∧ r.mnemonic = i.mnemonic

/-- 30_encoding.md R46: tag 0 is START, without operand; tag 1 is SEND with its pattern, taken exactly as given. -/
def Obligations.TagSelectsTheCommand : Prop :=
  decode (.cmd ⟨0, .scalars []⟩) = .ok .start ∧
  ∀ p : List Char, decode (.cmd ⟨1, .scalars (p.map containerOf)⟩) = .ok (.send p)

/-- 30_encoding.md R51: the byte front end decodes each byte alone, and a pattern's UTF-8 bytes give the same data symbols and the
same step list as the pattern. UTF-8 itself is general knowledge (log 13). -/
def Obligations.ByteFrontEndGivesTheSameSteps : Prop :=
  (∀ b : Byte, symClass (byteSymbol b) = if b = 0x31 then .one else if b = 0x30 then .zero else .sep) ∧
  ∀ p : List Char, ∃ q, decode (.cmd ⟨1, .bytes (utf8Pattern p)⟩) = .ok (.send q) ∧
    dataSymbols q = dataSymbols p ∧ ∀ cfg, sendSteps cfg q = sendSteps cfg p

/-- A host command whose pattern has a container that holds no scalar value stops by name (log 12). -/
def Obligations.UnformableSymbolIsRefused : Prop :=
  ∀ (s : State) (ws : List Container) (rest : List HostAct),
    s.presented (.cmd ⟨1, .scalars ws⟩) rest → (∃ w ∈ ws, Container.isSymbol w = false) →
      ∃ w ∈ ws, Container.isSymbol w = false ∧ step s = .refused (.notAScalarValue w)

/-! ## Reset and bring-up -/

/-- 70_reset_and_hazards.md R108: the state after construction, for either initial level and every configuration; the durations are
those of 00_scope.md R13. -/
def Obligations.ConstructionState : Prop :=
  (∀ (cfg : Configuration) (l : Level),
    (State.construct cfg l).mode = .idle ∧ (State.construct cfg l).cmd = .none ∧ (State.construct cfg l).pc = 0 ∧
    (State.construct cfg l).pattern = [] ∧ (State.construct cfg l).pin = l ∧ (State.construct cfg l).trace = [] ∧
    (State.construct cfg l).cfg = cfg) ∧
  (State.reset.cfg.tPreHi = 1500 ∧ State.reset.cfg.tPreLo = 741 ∧ State.reset.cfg.tOneHi = 741 ∧
    State.reset.cfg.tOneLo = 247 ∧ State.reset.cfg.tZeroHi = 247 ∧ State.reset.cfg.tZeroLo = 741 ∧
    State.reset.cfg.tGap = 7000)

/-- 60_exceptions.md R87, R88: a halted system takes no step, whatever its host asks. -/
def Obligations.HaltedSystemStops : Prop :=
  ∀ s : State,
    (s.system = .halted .peripheralAcquisition → step s = .fault .peripheralAcquisition) ∧
    (s.system = .halted .doubleAcquisition → step s = .fault .doubleAcquisition)

/-- 60_exceptions.md R88: a second call of the factory halts the system, whatever its answer and whichever steps of bring-up are done
beside the first call; it returns no handle, emits no event and changes nothing else. -/
def Obligations.SecondAcquisitionHalts : Prop :=
  ∀ (s : State) (b : BootProgress) (ok : Bool) (rest : List BootAct),
    s.system = .booting b (.acquire ok :: rest) → b.handles = true →
      step s = .next { s with system := .halted .doubleAcquisition } ∧
      step { s with system := .halted .doubleAcquisition } = .fault .doubleAcquisition

/-- 70_reset_and_hazards.md R113: when one of the steps 1 to 4 of bring-up fails, the result is the peripheral-acquisition fault; the
system halts and no step of it is taken. The steps before it succeeded, with at most one call of the factory. -/
def Obligations.FailedBringUpHalts : Prop :=
  ∀ (s : State) (before after : List BootAct) (a : BootAct),
    s.system = .booting BootProgress.powerOn (before ++ a :: after) →
    (∀ x ∈ before, x = .board true ∨ x = .delay true ∨ x = .pin true ∨ x = .acquire true) →
    before.count (.acquire true) + [a].count (.acquire false) ≤ 1 →
    (a = .board false ∨ a = .delay false ∨ a = .pin false ∨ a = .acquire false) →
      stepN (before.length + 1) s = .next { s with system := .halted .peripheralAcquisition } ∧
      step { s with system := .halted .peripheralAcquisition } = .fault .peripheralAcquisition

/-- 70_reset_and_hazards.md R112: from power-on a block comes to exist exactly when all of bring-up's steps are done, none fails, and
the factory is called once; it is then the constructed block (R109), and commands come only after it. -/
def Obligations.ConstructionNeedsBringUp : Prop :=
  ∀ (s : State) (acts : List BootAct), s.system = .booting BootProgress.powerOn acts →
    (∀ (n : Nat) (t : State), stepN n s = .next t → t.system = .running →
      .board true ∈ acts ∧ .delay true ∈ acts ∧ .pin true ∈ acts ∧ acts.count (.acquire true) = 1 ∧
      .board false ∉ acts ∧ .delay false ∉ acts ∧ .pin false ∉ acts ∧ .acquire false ∉ acts) ∧
    (.board true ∈ acts → .delay true ∈ acts → .pin true ∈ acts → acts.count (.acquire true) = 1 →
      .board false ∉ acts → .delay false ∉ acts → .pin false ∉ acts → .acquire false ∉ acts →
        stepN (acts.length + 1) s = .next { s with system := .running } ∧
        ∀ cfg l, s = State.powerOn cfg l acts → ({ s with system := .running } : State) = State.construct cfg l)

/-- 60_exceptions.md R91, R87: the faults 2 and 3 occur before construction. A constructed block stays one, and none of its steps is
one of them; before construction a step changes nothing but the system, so no command is accepted and no event emitted. -/
def Obligations.FatalFaultsPrecedeConstruction : Prop :=
  (∀ s : State, s.system = .running →
    (∀ t, step s = .next t → t.system = .running) ∧
    step s ≠ .fault .peripheralAcquisition ∧ step s ≠ .fault .doubleAcquisition) ∧
  (∀ s t : State, s.system ≠ .running → step s = .next t → ∃ x, t = { s with system := x })

/-! ## What a step is -/

/-- A step runs the decoded instruction. IDLE: the command at the host port. TRANSMITTING: the command in progress; in SEND the
symbol at the symbol index, which the decoder reads from its container; a separator takes no step, so the step that meets one goes
on behind it (log 8). -/
def Obligations.StepRunsTheDecodedInstruction : Prop :=
  (∀ (s : State) (c : CmdWord) (rest : List HostAct) (i : Instr),
    s.presented (.cmd c) rest → decode (.cmd c) = .ok i → step s = exec i s) ∧
  (∀ s : State, s.system = .running → s.mode = .transmitting → s.cmd = .start → step s = exec .start s) ∧
  (∀ s : State, s.system = .running → s.sending = true →
    step s = exec (.send s.pattern) s ∧
    ∀ (c : Char) (i : Instr), s.pattern.read s.symIdx = some c → decode (.sym (containerOf c)) = .ok i →
      ((i = .symOne ∨ i = .symZero) → step s = exec i s) ∧
      (i = .symSep c → ∃ t, exec i s = .next t ∧ step s = step t))

/-- The word placed by `withFetchWord` is the one the next step runs, from the reset state: the five rows of the opcode table. -/
def Obligations.PlacedWordRuns : Prop :=
  step (State.reset.withFetchWord 8 0) = exec .start (State.reset.withFetchWord 8 0) ∧
  step (State.reset.withFetchWord 8 1) = exec (.send []) (State.reset.withFetchWord 8 1) ∧
  step (State.reset.withFetchWord 32 0x31) = exec .symOne (State.reset.withFetchWord 32 0x31) ∧
  step (State.reset.withFetchWord 32 0x30) = exec .symZero (State.reset.withFetchWord 32 0x30) ∧
  ∃ t, exec (.symSep ' ') (State.reset.withFetchWord 32 0x20) = .next t ∧
    step (State.reset.withFetchWord 32 0x20) = step t

/-- 40_commands.md R62: the acceptance of START and of SEND is one transition, without event; while TRANSMITTING no command is
accepted: the one at the host port stays there. -/
def Obligations.CommandAcceptance : Prop :=
  (∀ s : State, s.mode = .idle →
    exec .start s = .next { s with
      mode := .transmitting, cmd := .start, pc := 0, pattern := [], symIdx := 0, host := s.host.tail }) ∧
  (∀ (s : State) (p : List Char), s.mode = .idle →
    exec (.send p) s = .next { s with
      mode := .transmitting, cmd := .send, pc := 0, pattern := p, symIdx := 0, host := s.host.tail }) ∧
  (∀ s t : State, s.mode = .transmitting → step s = .next t → t.host = s.host)

/-- A command other than the running one changes nothing: it is held (log 16 reads 40_commands.md R62 so). -/
def Obligations.OtherCommandIsHeld : Prop :=
  ∀ s : State, s.mode = .transmitting →
    (s.cmd ≠ .start → exec .start s = .next s) ∧ (∀ p, s.cmd ≠ .send → exec (.send p) s = .next s)

/-- With nothing presented an idle block stays as it is, and a pause of the host only adds idle time at the pin's level (the model's
choices, logs 10 and 17). -/
def Obligations.IdleBlockWaitsForItsHost : Prop :=
  (∀ s : State, s.system = .running → s.mode = .idle → s.host = [] → step s = .next s) ∧
  (∀ (s : State) (us : Nat) (rest : List HostAct), s.presented (.pause us) rest →
    step s = .next { s with wave := s.wave ++ [.idle s.pin us], host := rest })

/-! ## START -/

/-- START's transitions while it runs: its four steps and its return, each a next state given whole (40_commands.md R63, R64, R66).
A failed write follows the fault policy (`State.afterWrite`). -/
def Obligations.StartTransitions : Prop :=
  ∀ s : State, s.mode = .transmitting → s.cmd = .start →
    (s.pc = 0 → exec .start s = .next (s.afterWrite .high)) ∧
    (s.pc = 1 → exec .start s = .next (s.afterWait s.cfg.tPreHi)) ∧
    (s.pc = 2 → exec .start s = .next (s.afterWrite .low)) ∧
    (s.pc = 3 → exec .start s = .next (s.afterWait s.cfg.tPreLo)) ∧
    (s.pc = 4 → exec .start s = .next s.afterReturn)

/-- 40_commands.md R66 with no failed write: a whole START, from its acceptance to its return. -/
def Obligations.StartEmitsThePreamble : Prop :=
  ∀ (s : State) (rest : List HostAct), s.presented startAct rest → s.writesSucceed 2 →
    ∃ t, stepN 6 s = .next t ∧
      t.trace = s.trace ++ [.W .high .ok, .D s.cfg.tPreHi, .W .low .ok, .D s.cfg.tPreLo, .R .ok] ∧
      levelTrace t.wave = levelTrace s.wave ++ [(.high, s.cfg.tPreHi), (.low, s.cfg.tPreLo)] ∧
      t.pin = .low ∧ t.mode = .idle ∧ t.cmd = .none ∧ t.pc = 0 ∧ t.pattern = [] ∧ t.symIdx = 0 ∧
      t.host = rest ∧ t.cfg = s.cfg ∧ t.system = .running

/-! ## SEND and its symbols -/

/-- SYM_ONE's four steps, each a next state given whole; the last one consumes the symbol (41_symbols.md R77). -/
def Obligations.SymOneTransitions : Prop :=
  ∀ s : State, s.sending = true →
    (s.pc = s.symBase → exec .symOne s = .next (s.afterWrite .high)) ∧
    (s.pc = s.symBase + 1 → exec .symOne s = .next (s.afterWait s.cfg.tOneHi)) ∧
    (s.pc = s.symBase + 2 → exec .symOne s = .next (s.afterWrite .low)) ∧
    (s.pc = s.symBase + 3 →
      exec .symOne s = .next { s.afterWait s.cfg.tOneLo with symIdx := s.symIdx + 1 })

/-- SYM_ZERO's four steps, each a next state given whole; the last one consumes the symbol (41_symbols.md R78). -/
def Obligations.SymZeroTransitions : Prop :=
  ∀ s : State, s.sending = true →
    (s.pc = s.symBase → exec .symZero s = .next (s.afterWrite .high)) ∧
    (s.pc = s.symBase + 1 → exec .symZero s = .next (s.afterWait s.cfg.tZeroHi)) ∧
    (s.pc = s.symBase + 2 → exec .symZero s = .next (s.afterWrite .low)) ∧
    (s.pc = s.symBase + 3 →
      exec .symZero s = .next { s.afterWait s.cfg.tZeroLo with symIdx := s.symIdx + 1 })

/-- 41_symbols.md R79: every symbol but '0' and '1' decodes to SYM_SEP, whose step list is empty; it runs without fault, does nothing
on the ports and changes nothing but the number of consumed symbols. -/
def Obligations.SeparatorDoesNothing : Prop :=
  (∀ c : Char, c.toNat ≠ 0x30 → c.toNat ≠ 0x31 →
    decode (.sym (containerOf c)) = .ok (.symSep c) ∧ ∀ cfg, symSteps cfg (symClass c) = []) ∧
  (∀ (s : State) (c : Char), s.sending = true → exec (.symSep c) s = .next { s with symIdx := s.symIdx + 1 })

/-- Outside a SEND no symbol runs: the model stops by name (log 15). -/
def Obligations.SymbolOutsideSendIsRefused : Prop :=
  ∀ s : State, s.sending = false →
    exec .symOne s = .refused .symbolOutsideSend ∧ exec .symZero s = .refused .symbolOutsideSend ∧
    ∀ c, exec (.symSep c) s = .refused .symbolOutsideSend

/-- 40_commands.md R68: after the last symbol SEND issues exactly one wait of T_GAP, with no pin write before it, for an empty
pattern too; then it returns. Its step list ends with this wait and has no other one but the symbols'. -/
def Obligations.FrameGapEndsSend : Prop :=
  (∀ cfg p, sendSteps cfg p = p.flatMap (fun c => symSteps cfg (symClass c)) ++ [.D cfg.tGap]) ∧
  ∀ s : State, s.sending = true → s.symIdx = s.pattern.length →
    (s.pc = (patternSteps s.cfg s.pattern).length →
      exec (.send s.pattern) s = .next (s.afterWait s.cfg.tGap) ∧ (s.afterWait s.cfg.tGap).pin = s.pin) ∧
    (s.pc = (patternSteps s.cfg s.pattern).length + 1 → exec (.send s.pattern) s = .next s.afterReturn)

/-- 40_commands.md R67 and R69 with no failed write: a whole SEND of any pattern, from its acceptance to its return. The pulses stand
in the order of their symbols, and one gap follows, at LOW if the pattern has a data symbol, else at the level the pin had. -/
def Obligations.SendEmitsThePattern : Prop :=
  ∀ (s : State) (p : List Char) (rest : List HostAct),
    s.presented (sendAct p) rest → s.writesSucceed (2 * (dataSymbols p).length) →
    ∃ t, stepN ((sendSteps s.cfg p).length + 2) s = .next t ∧
      t.trace = s.trace ++ (sendSteps s.cfg p).map Step.okEvent ++ [.R .ok] ∧
      levelTrace t.wave = levelTrace s.wave ++ p.flatMap (symSegments s.cfg) ++ [(t.pin, s.cfg.tGap)] ∧
      t.pin = (if dataSymbols p = [] then s.pin else .low) ∧
      t.mode = .idle ∧ t.cmd = .none ∧ t.pc = 0 ∧ t.pattern = [] ∧ t.symIdx = 0 ∧
      t.host = rest ∧ t.cfg = s.cfg ∧ t.system = .running

/-- 40_commands.md R63: the step lists, and their lengths. -/
def Obligations.StepListLengths : Prop :=
  ∀ cfg : Configuration,
    startSteps cfg = [.W .high, .D cfg.tPreHi, .W .low, .D cfg.tPreLo] ∧ (startSteps cfg).length = 4 ∧
    ∀ p, (sendSteps cfg p).length = 4 * (countClass .one p + countClass .zero p) + 1

/-- 40_commands.md R70: the nominal times of SEND, with the source's durations: active, total, high, and low before the gap. -/
def Obligations.NominalTimesOfSend : Prop :=
  ∀ (cfg : Configuration) (p : List Char),
    cfg.tOneHi = 741 → cfg.tOneLo = 247 → cfg.tZeroHi = 247 → cfg.tZeroLo = 741 → cfg.tGap = 7000 →
      nominalTime (patternSteps cfg p) = 988 * (countClass .one p + countClass .zero p) ∧
      nominalTime (sendSteps cfg p) = 988 * (countClass .one p + countClass .zero p) + 7000 ∧
      ∀ l, levelTime .high l (patternSteps cfg p) = 741 * countClass .one p + 247 * countClass .zero p ∧
        levelTime .low l (patternSteps cfg p) = 247 * countClass .one p + 741 * countClass .zero p

/-- 70_reset_and_hazards.md R117, the row of the concrete frame. -/
def Obligations.ReferenceFrameFigures : Prop :=
  (sendSteps Configuration.reference referenceFrame).length = 165 ∧
  levelTime .high .low (sendSteps Configuration.reference referenceFrame) = 17537 ∧
  levelTime .low .low (sendSteps Configuration.reference referenceFrame) = 29971 ∧
  nominalTime (sendSteps Configuration.reference referenceFrame) = 47508

/-- 30_encoding.md R57: two patterns with the same data symbols give the same trace, after any number of steps, under any answers
of the ports and whatever the host does next. -/
def Obligations.SeparatorsDoNotChangeTheTrace : Prop :=
  ∀ (s t : State) (p q : List Char) (rest : List HostAct) (n : Nat),
    s.presented (sendAct p) rest → dataSymbols p = dataSymbols q → stepN n s = .next t →
      ∃ t', stepN n { s with host := sendAct q :: rest } = .next t' ∧ t'.trace = t.trace ∧
        levelTrace t'.wave = levelTrace t.wave

/-- 40_commands.md R71: two consecutive SENDs of one pattern, with no failed write, give the same events twice, each time with its
own gap and return. -/
def Obligations.RepeatedSendRepeatsItsTrace : Prop :=
  ∀ (s : State) (p : List Char) (rest : List HostAct),
    s.presented (sendAct p) (sendAct p :: rest) → s.writesSucceed (4 * (dataSymbols p).length) →
      ∃ t es, stepN (2 * ((sendSteps s.cfg p).length + 2)) s = .next t ∧
        t.trace = s.trace ++ (es ++ [.D s.cfg.tGap, .R .ok]) ++ (es ++ [.D s.cfg.tGap, .R .ok]) ∧
        es = (patternSteps s.cfg p).map Step.okEvent

/-- The reference host's MESSAGE(P, N) (30_encoding.md R56) with no failed write: one preamble, then N times the same frame with its
gap, one command after the other. -/
def Obligations.MessageEmitsItsFrames : Prop :=
  ∀ (s : State) (p : List Char) (n : Nat) (rest : List HostAct),
    s.system = .running → s.mode = .idle → s.host = message p n ++ rest →
    s.writesSucceed (2 + n * (2 * (dataSymbols p).length)) →
      ∃ t, stepN (6 + n * ((sendSteps s.cfg p).length + 2)) s = .next t ∧
        t.trace = s.trace ++ [.W .high .ok, .D s.cfg.tPreHi, .W .low .ok, .D s.cfg.tPreLo, .R .ok] ++
          (List.replicate n ((sendSteps s.cfg p).map Step.okEvent ++ [.R .ok])).flatten ∧
        t.mode = .idle ∧ t.host = rest ∧ (0 < n → dataSymbols p ≠ [] → t.pin = .low)

/-! ## The sequencer -/

/-- 40_commands.md R64: while TRANSMITTING, a step performs step `pc` of `Expand(cmd)`, or returns when `pc` is its length. Nothing
else changes, but for the number of consumed symbols. -/
def Obligations.StepPerformsTheExpansion : Prop :=
  ∀ s : State, s.system = .running → s.Inv → s.mode = .transmitting →
    s.pc ≤ s.expand.length ∧
    (s.pc = s.expand.length → step s = .next s.afterReturn) ∧
    (∀ st, s.expand[s.pc]? = some st → ∃ k, step s = .next { s.afterStep st with symIdx := k })

/-- The invariant of the sequencer position is kept by every step (10_state.md R17, R18, R19). -/
def Obligations.EveryStepKeepsThePosition : Prop :=
  ∀ s t : State, s.Inv → step s = .next t → t.Inv

/-- The invariant of the sequencer position holds after construction, for every configuration and initial level. -/
def Obligations.ConstructionMeetsThePosition : Prop :=
  ∀ (cfg : Configuration) (l : Level), (State.construct cfg l).Inv ∧ State.reset.Inv

/-- 10_state.md R18: every transition leaves `pc`, advances it by exactly 1, or sets it to 0 (acceptance and return); before
construction it leaves it. -/
def Obligations.PcOnlyIncrements : Prop :=
  ∀ s t : State, step s = .next t →
    (s.mode = .idle → t.pc = s.pc ∨ (t.mode = .transmitting ∧ t.pc = 0)) ∧
    (s.system = .running → s.mode = .transmitting → t.pc = s.pc + 1 ∨ (t.mode = .idle ∧ t.pc = 0)) ∧
    (s.system ≠ .running → t.pc = s.pc)

/-- 20_memory.md R32: SEND consumes its symbols in increasing index order and never passes the end of the pattern, which does not
change while it runs. -/
def Obligations.SymbolsAreConsumedInOrder : Prop :=
  ∀ s t : State, s.Inv → s.sending = true → step s = .next t → t.mode = .transmitting →
    s.symIdx ≤ t.symIdx ∧ t.symIdx ≤ s.pattern.length ∧ t.pattern = s.pattern ∧
    (∀ a, t.pattern.read a = s.pattern.read a) ∧
    ∀ i c, s.symIdx ≤ i → i + 1 < t.symIdx → s.pattern.read i = some c → isDataSymbol c = false

/-- 10_state.md R27: every return, with OK or ERR, resets the command, the position and the pattern; the pin stays as the step left
it. -/
def Obligations.EveryReturnResetsTheSequencer : Prop :=
  ∀ (s t : State) (es : List Event) (r : Result), step s = .next t → t.trace = s.trace ++ es → .R r ∈ es →
    t.mode = .idle ∧ t.cmd = .none ∧ t.pc = 0 ∧ t.pattern = [] ∧ t.symIdx = 0

/-- 60_exceptions.md R106: a running command returns after the rest of its steps and the return step, or earlier under PROPAGATE: it
emits its one R event and then is idle. It takes nothing from the host port. -/
def Obligations.EveryCommandReturns : Prop :=
  ∀ s : State, s.system = .running → s.Inv → s.mode = .transmitting →
    ∃ n t es r, stepN n s = .next t ∧ t.trace = s.trace ++ es ++ [.R r] ∧ (∀ r', .R r' ∉ es) ∧
      t.mode = .idle ∧ t.host = s.host ∧ n ≤ s.expand.length - s.pc + 1 ∧
      (s.cfg.faultPolicy = .suppress ∨ s.cfg.pinFallible = false → n = s.expand.length - s.pc + 1)

/-- 60_exceptions.md R89: nothing stops a block whose host presents proper acts, whatever its patterns and the answers of its
ports. -/
def Obligations.NoRunStops : Prop :=
  ∀ (s : State) (n : Nat), s.system = .running → s.Inv → s.host.all HostAct.proper = true → Safe (stepN n s)

/-! ## Frames -/

/-- What no instruction changes: the configuration and the system; while TRANSMITTING, the host port; and the trace and the waveform
only grow. -/
def Obligations.ExecKeepsConfigurationAndHistory : Prop :=
  ∀ (i : Instr) (s t : State), exec i s = .next t →
    t.cfg = s.cfg ∧ t.system = s.system ∧ (s.mode = .transmitting → t.host = s.host) ∧
    (∃ es, t.trace = s.trace ++ es) ∧ (∃ ws, t.wave = s.wave ++ ws) ∧
    (∃ as, s.answers = as ++ t.answers) ∧ (∃ xs, s.slacks = xs ++ t.slacks) ∧ s.draws ≤ t.draws

/-- 10_state.md R24: no step changes the configuration. -/
def Obligations.ConfigurationIsFixed : Prop :=
  ∀ (s t : State) (n : Nat), stepN n s = .next t → t.cfg = s.cfg

/-- The frame of the symbol operations when they go on: command, mode, pattern store, configuration and host are unchanged; SYM_SEP
leaves the pin, the position and the traces as well. -/
def Obligations.SymbolFrame : Prop :=
  (∀ (i : Instr) (s t : State), i = .symOne ∨ i = .symZero → exec i s = .next t → t.mode = .transmitting →
    t.cmd = s.cmd ∧ (∀ a, t.pattern.read a = s.pattern.read a) ∧ t.host = s.host ∧ t.cfg = s.cfg ∧
    t.system = s.system ∧ t.pc = s.pc + 1) ∧
  (∀ (c : Char) (s t : State), exec (.symSep c) s = .next t →
    t.mode = s.mode ∧ t.cmd = s.cmd ∧ (∀ a, t.pattern.read a = s.pattern.read a) ∧ t.host = s.host ∧
    t.cfg = s.cfg ∧ t.system = s.system ∧ t.pc = s.pc ∧ t.pin = s.pin ∧ t.trace = s.trace ∧ t.wave = s.wave ∧
    t.answers = s.answers ∧ t.slacks = s.slacks ∧ t.draws = s.draws)

/-- The frame of the acceptance, and of START and SEND while they run and do not return. Acceptance leaves the pin and the traces. -/
def Obligations.CommandFrame : Prop :=
  ∀ (i : Instr) (s t : State), (i = .start ∨ ∃ p, i = .send p) → exec i s = .next t →
    (s.mode = .idle →
      t.pin = s.pin ∧ t.trace = s.trace ∧ t.wave = s.wave ∧ t.cfg = s.cfg ∧ t.system = s.system ∧
      t.answers = s.answers ∧ t.slacks = s.slacks ∧ t.draws = s.draws) ∧
    (s.mode = .transmitting → t.mode = .transmitting →
      t.cmd = s.cmd ∧ (∀ a, t.pattern.read a = s.pattern.read a) ∧ t.host = s.host ∧ t.cfg = s.cfg ∧
      t.system = s.system)

/-! ## The pin -/

/-- 10_state.md R20: only the block's own pin writes change the pin, so a step that changes it records a write; an idle block's pin
keeps its level. -/
def Obligations.OnlyPinWritesChangeThePin : Prop :=
  ∀ (s t : State) (es : List Event), step s = .next t → t.trace = s.trace ++ es →
    (t.pin ≠ s.pin → ∃ l r, .W l r ∈ es) ∧ (s.mode = .idle → t.pin = s.pin)

/-- 10_state.md R20: where the last pin write of the trace succeeded, the pin is at its level. Every step keeps this, in every
state. -/
def Obligations.PinIsAtTheLastWrittenLevel : Prop :=
  ∀ s t : State, (∀ l, lastWrite s.trace = some (l, .ok) → s.pin = l) → step s = .next t →
    ∀ l, lastWrite t.trace = some (l, .ok) → t.pin = l

/-- 60_exceptions.md R82: an infallible pin answers every write OK. -/
def Obligations.InfalliblePinNeverFails : Prop :=
  ∀ (s t : State) (es : List Event), s.cfg.pinFallible = false → step s = .next t → t.trace = s.trace ++ es →
    ∀ l, .W l .err ∉ es

/-! ## The pin-write fault -/

/-- 60_exceptions.md R85: under PROPAGATE a failed write ends the command at once with R(ERR): no further write or wait, the pin at
the drawn level, the sequencer reset. A write that succeeds goes on to the next step. -/
def Obligations.PropagateEndsTheCommand : Prop :=
  ∀ (s : State) (l : Level), s.system = .running → s.Inv → s.mode = .transmitting →
    s.cfg.faultPolicy = .propagate → s.expand[s.pc]? = some (.W l) →
      (∀ x, s.pinAnswer = .err x →
        step s = .next { s.afterPinAnswer with
          trace := s.trace ++ [.W l .err, .R .err], pin := x,
          mode := .idle, cmd := .none, pc := 0, pattern := [], symIdx := 0 }) ∧
      (s.pinAnswer = .ok → ∃ k,
        step s = .next { s.afterPinAnswer with
          trace := s.trace ++ [.W l .ok], pin := l, pc := s.pc + 1, symIdx := k })

/-- 60_exceptions.md R92: under PROPAGATE the trace of a failed command holds exactly the events of its steps up to the failing
write, then R(ERR), and nothing is saved; whichever write of START or SEND fails. -/
def Obligations.PropagatedFaultIsPrecise : Prop :=
  ∀ (s : State) (a : HostAct) (rest : List HostAct) (steps : List Step) (k : Nat) (l x : Level) (more : List PinAnswer),
    CommandSteps s.cfg a steps → s.presented a rest → s.cfg.pinFallible = true → s.cfg.faultPolicy = .propagate →
    steps[k]? = some (.W l) →
    s.answers = List.replicate ((steps.take k).countP Step.isWrite) .ok ++ .err x :: more →
      ∃ t, stepN (k + 2) s = .next t ∧
        t.trace = s.trace ++ (steps.take k).map Step.okEvent ++ [.W l .err, .R .err] ∧
        t.pin = x ∧ t.mode = .idle ∧ t.cmd = .none ∧ t.pc = 0 ∧ t.pattern = [] ∧ t.symIdx = 0 ∧
        t.host = rest ∧ t.answers = more ∧ t.cfg = s.cfg ∧ t.system = .running

/-- 60_exceptions.md R84: under SUPPRESS a whole command gives the same events whatever the pin answers, but for the marks of its
writes, and its return is OK. -/
def Obligations.SuppressedFaultsKeepTheTrace : Prop :=
  ∀ (s : State) (a : HostAct) (rest : List HostAct) (steps : List Step),
    CommandSteps s.cfg a steps → s.presented a rest → s.cfg.faultPolicy = .suppress →
      ∃ t es, stepN (steps.length + 2) s = .next t ∧ t.trace = s.trace ++ es ++ [.R .ok] ∧
        es.map Event.unmarked = steps.map Step.okEvent ∧
        t.mode = .idle ∧ t.cmd = .none ∧ t.pc = 0 ∧ t.pattern = [] ∧ t.host = rest

/-- 10_state.md R23: under SUPPRESS every return is OK; under PROPAGATE a step returns ERR exactly when its pin write failed. -/
def Obligations.StatusIsTheFaultUnderPropagate : Prop :=
  ∀ (s t : State) (es : List Event), step s = .next t → t.trace = s.trace ++ es →
    (s.cfg.faultPolicy = .suppress → .R .err ∉ es) ∧
    (s.cfg.faultPolicy = .propagate → (.R .err ∈ es ↔ ∃ l, .W l .err ∈ es))

/-- 60_exceptions.md R91: a step makes at most one pin write, so at most one fault arises in it. Under SUPPRESS the failed write is
recorded and the command goes on; under PROPAGATE it ends the command; it is a constructed block's, before and after. -/
def Obligations.OneFaultPerStep : Prop :=
  ∀ (s t : State) (es : List Event), step s = .next t → t.trace = s.trace ++ es →
    es.countP Event.isPinFault ≤ 1 ∧
    es.countP (fun e => e.unmarked == .W .high .ok || e.unmarked == .W .low .ok) ≤ 1 ∧
    ∀ l, .W l .err ∈ es → s.system = .running ∧ t.system = .running ∧
      (s.cfg.faultPolicy = .suppress → es = [.W l .err] ∧ t.mode = .transmitting ∧ t.pc = s.pc + 1) ∧
      (s.cfg.faultPolicy = .propagate → es = [.W l .err, .R .err] ∧ t.mode = .idle ∧ t.pc = 0)

/-- The trace holds the position: while a command runs, the events since the last return are `pc` many; an idle block has none.
Every step keeps this. -/
def Obligations.TraceHoldsThePosition : Prop :=
  ∀ s t : State, s.Inv → stepsSinceReturn 0 s.trace = s.pc → step s = .next t → stepsSinceReturn 0 t.trace = t.pc

/-- 60_exceptions.md R81, R82: the information of a pin-write fault, the requested level and the step index, can be read off the
trace (log 21): a failed write adds exactly its own record, and no other step adds one. -/
def Obligations.FaultInformationIsInTheTrace : Prop :=
  ∀ s t : State, s.system = .running → s.Inv → stepsSinceReturn 0 s.trace = s.pc → step s = .next t →
    (∀ l x, s.mode = .transmitting → s.expand[s.pc]? = some (.W l) → s.pinAnswer = .err x →
      pinFaults t.trace = pinFaults s.trace ++ [⟨l, s.pc⟩]) ∧
    ((∀ l x, ¬ (s.mode = .transmitting ∧ s.expand[s.pc]? = some (.W l) ∧ s.pinAnswer = .err x)) →
      pinFaults t.trace = pinFaults s.trace)

/-- 60_exceptions.md R83: no step reads the pin: another level changes no event of any run. -/
def Obligations.PinLevelChangesNoEvent : Prop :=
  ∀ (s t : State) (l : Level) (n : Nat), stepN n s = .next t →
    ∃ t', stepN n { s with pin := l } = .next t' ∧ t'.trace = t.trace ∧ t'.mode = t.mode ∧ t'.pc = t.pc

/-! ## Host and time -/

/-- 20_memory.md R31, R43: a running command does not see what the host prepares next: its step is the same with any other host
list. -/
def Obligations.RunningCommandIgnoresTheHost : Prop :=
  ∀ (s t : State) (h : List HostAct), s.system = .running → s.mode = .transmitting → step s = .next t →
    step { s with host := h } = .next { t with host := h }

/-- 70_reset_and_hazards.md R114: the real length of every wait is at least its operand, and within the slack bound where there is
one. Every step keeps this. -/
def Obligations.WaitsKeepTheirBounds : Prop :=
  ∀ s t : State, (∀ x ∈ s.wave, x.withinBounds s.cfg) → step s = .next t → ∀ x ∈ t.wave, x.withinBounds t.cfg

/-- 70_reset_and_hazards.md R114: every real length within the bounds can be drawn. -/
def Obligations.EveryBoundedLengthCanBeDrawn : Prop :=
  ∀ (s : State) (n : Micros) (t : Nat) (more : List Nat),
    n.toNat ≤ t → (∀ m, s.cfg.maxSlack = some m → t ≤ n.toNat + m) →
      (({ s with slacks := (t - n.toNat) :: more } : State).waitUs n).wave = s.wave ++ [.wait s.pin n t]
end

