-- ==== Sys2Proof/Laws/State.lean ====
section
/-! SUPPORT. One lemma per field per update of State: each true by rfl. -/

namespace Sys2Proof.Machine

/-! ### State.emit -/

@[simp] theorem emit_system (s : State) (e : Event) : (s.emit e).system = s.system := rfl
@[simp] theorem emit_cfg (s : State) (e : Event) : (s.emit e).cfg = s.cfg := rfl
@[simp] theorem emit_mode (s : State) (e : Event) : (s.emit e).mode = s.mode := rfl
@[simp] theorem emit_cmd (s : State) (e : Event) : (s.emit e).cmd = s.cmd := rfl
@[simp] theorem emit_pc (s : State) (e : Event) : (s.emit e).pc = s.pc := rfl
@[simp] theorem emit_pattern (s : State) (e : Event) : (s.emit e).pattern = s.pattern := rfl
@[simp] theorem emit_symIdx (s : State) (e : Event) : (s.emit e).symIdx = s.symIdx := rfl
@[simp] theorem emit_pin (s : State) (e : Event) : (s.emit e).pin = s.pin := rfl
@[simp] theorem emit_trace (s : State) (e : Event) : (s.emit e).trace = s.trace ++ [e] := rfl
@[simp] theorem emit_wave (s : State) (e : Event) : (s.emit e).wave = s.wave := rfl
@[simp] theorem emit_host (s : State) (e : Event) : (s.emit e).host = s.host := rfl
@[simp] theorem emit_answers (s : State) (e : Event) : (s.emit e).answers = s.answers := rfl
@[simp] theorem emit_slacks (s : State) (e : Event) : (s.emit e).slacks = s.slacks := rfl
@[simp] theorem emit_draws (s : State) (e : Event) : (s.emit e).draws = s.draws := rfl

/-! ### State.advance -/

@[simp] theorem advance_system (s : State) : (s.advance).system = s.system := rfl
@[simp] theorem advance_cfg (s : State) : (s.advance).cfg = s.cfg := rfl
@[simp] theorem advance_mode (s : State) : (s.advance).mode = s.mode := rfl
@[simp] theorem advance_cmd (s : State) : (s.advance).cmd = s.cmd := rfl
@[simp] theorem advance_pc (s : State) : (s.advance).pc = s.pc + 1 := rfl
@[simp] theorem advance_pattern (s : State) : (s.advance).pattern = s.pattern := rfl
@[simp] theorem advance_symIdx (s : State) : (s.advance).symIdx = s.symIdx := rfl
@[simp] theorem advance_pin (s : State) : (s.advance).pin = s.pin := rfl
@[simp] theorem advance_trace (s : State) : (s.advance).trace = s.trace := rfl
@[simp] theorem advance_wave (s : State) : (s.advance).wave = s.wave := rfl
@[simp] theorem advance_host (s : State) : (s.advance).host = s.host := rfl
@[simp] theorem advance_answers (s : State) : (s.advance).answers = s.answers := rfl
@[simp] theorem advance_slacks (s : State) : (s.advance).slacks = s.slacks := rfl
@[simp] theorem advance_draws (s : State) : (s.advance).draws = s.draws := rfl

/-! ### State.nextSymbol -/

@[simp] theorem nextSymbol_system (s : State) : (s.nextSymbol).system = s.system := rfl
@[simp] theorem nextSymbol_cfg (s : State) : (s.nextSymbol).cfg = s.cfg := rfl
@[simp] theorem nextSymbol_mode (s : State) : (s.nextSymbol).mode = s.mode := rfl
@[simp] theorem nextSymbol_cmd (s : State) : (s.nextSymbol).cmd = s.cmd := rfl
@[simp] theorem nextSymbol_pc (s : State) : (s.nextSymbol).pc = s.pc := rfl
@[simp] theorem nextSymbol_pattern (s : State) : (s.nextSymbol).pattern = s.pattern := rfl
@[simp] theorem nextSymbol_symIdx (s : State) : (s.nextSymbol).symIdx = s.symIdx + 1 := rfl
@[simp] theorem nextSymbol_pin (s : State) : (s.nextSymbol).pin = s.pin := rfl
@[simp] theorem nextSymbol_trace (s : State) : (s.nextSymbol).trace = s.trace := rfl
@[simp] theorem nextSymbol_wave (s : State) : (s.nextSymbol).wave = s.wave := rfl
@[simp] theorem nextSymbol_host (s : State) : (s.nextSymbol).host = s.host := rfl
@[simp] theorem nextSymbol_answers (s : State) : (s.nextSymbol).answers = s.answers := rfl
@[simp] theorem nextSymbol_slacks (s : State) : (s.nextSymbol).slacks = s.slacks := rfl
@[simp] theorem nextSymbol_draws (s : State) : (s.nextSymbol).draws = s.draws := rfl

/-! ### State.setPin -/

@[simp] theorem setPin_system (s : State) (l : Level) : (s.setPin l).system = s.system := rfl
@[simp] theorem setPin_cfg (s : State) (l : Level) : (s.setPin l).cfg = s.cfg := rfl
@[simp] theorem setPin_mode (s : State) (l : Level) : (s.setPin l).mode = s.mode := rfl
@[simp] theorem setPin_cmd (s : State) (l : Level) : (s.setPin l).cmd = s.cmd := rfl
@[simp] theorem setPin_pc (s : State) (l : Level) : (s.setPin l).pc = s.pc := rfl
@[simp] theorem setPin_pattern (s : State) (l : Level) : (s.setPin l).pattern = s.pattern := rfl
@[simp] theorem setPin_symIdx (s : State) (l : Level) : (s.setPin l).symIdx = s.symIdx := rfl
@[simp] theorem setPin_pin (s : State) (l : Level) : (s.setPin l).pin = l := rfl
@[simp] theorem setPin_trace (s : State) (l : Level) : (s.setPin l).trace = s.trace := rfl
@[simp] theorem setPin_wave (s : State) (l : Level) : (s.setPin l).wave = s.wave := rfl
@[simp] theorem setPin_host (s : State) (l : Level) : (s.setPin l).host = s.host := rfl
@[simp] theorem setPin_answers (s : State) (l : Level) : (s.setPin l).answers = s.answers := rfl
@[simp] theorem setPin_slacks (s : State) (l : Level) : (s.setPin l).slacks = s.slacks := rfl
@[simp] theorem setPin_draws (s : State) (l : Level) : (s.setPin l).draws = s.draws := rfl

/-! ### State.addSpan -/

@[simp] theorem addSpan_system (s : State) (x : Span) : (s.addSpan x).system = s.system := rfl
@[simp] theorem addSpan_cfg (s : State) (x : Span) : (s.addSpan x).cfg = s.cfg := rfl
@[simp] theorem addSpan_mode (s : State) (x : Span) : (s.addSpan x).mode = s.mode := rfl
@[simp] theorem addSpan_cmd (s : State) (x : Span) : (s.addSpan x).cmd = s.cmd := rfl
@[simp] theorem addSpan_pc (s : State) (x : Span) : (s.addSpan x).pc = s.pc := rfl
@[simp] theorem addSpan_pattern (s : State) (x : Span) : (s.addSpan x).pattern = s.pattern := rfl
@[simp] theorem addSpan_symIdx (s : State) (x : Span) : (s.addSpan x).symIdx = s.symIdx := rfl
@[simp] theorem addSpan_pin (s : State) (x : Span) : (s.addSpan x).pin = s.pin := rfl
@[simp] theorem addSpan_trace (s : State) (x : Span) : (s.addSpan x).trace = s.trace := rfl
@[simp] theorem addSpan_wave (s : State) (x : Span) : (s.addSpan x).wave = s.wave ++ [x] := rfl
@[simp] theorem addSpan_host (s : State) (x : Span) : (s.addSpan x).host = s.host := rfl
@[simp] theorem addSpan_answers (s : State) (x : Span) : (s.addSpan x).answers = s.answers := rfl
@[simp] theorem addSpan_slacks (s : State) (x : Span) : (s.addSpan x).slacks = s.slacks := rfl
@[simp] theorem addSpan_draws (s : State) (x : Span) : (s.addSpan x).draws = s.draws := rfl

/-! ### State.popHost -/

@[simp] theorem popHost_system (s : State) : (s.popHost).system = s.system := rfl
@[simp] theorem popHost_cfg (s : State) : (s.popHost).cfg = s.cfg := rfl
@[simp] theorem popHost_mode (s : State) : (s.popHost).mode = s.mode := rfl
@[simp] theorem popHost_cmd (s : State) : (s.popHost).cmd = s.cmd := rfl
@[simp] theorem popHost_pc (s : State) : (s.popHost).pc = s.pc := rfl
@[simp] theorem popHost_pattern (s : State) : (s.popHost).pattern = s.pattern := rfl
@[simp] theorem popHost_symIdx (s : State) : (s.popHost).symIdx = s.symIdx := rfl
@[simp] theorem popHost_pin (s : State) : (s.popHost).pin = s.pin := rfl
@[simp] theorem popHost_trace (s : State) : (s.popHost).trace = s.trace := rfl
@[simp] theorem popHost_wave (s : State) : (s.popHost).wave = s.wave := rfl
@[simp] theorem popHost_host (s : State) : (s.popHost).host = s.host.tail := rfl
@[simp] theorem popHost_answers (s : State) : (s.popHost).answers = s.answers := rfl
@[simp] theorem popHost_slacks (s : State) : (s.popHost).slacks = s.slacks := rfl
@[simp] theorem popHost_draws (s : State) : (s.popHost).draws = s.draws := rfl

/-! ### State.setSystem -/

@[simp] theorem setSystem_system (s : State) (x : System) : (s.setSystem x).system = x := rfl
@[simp] theorem setSystem_cfg (s : State) (x : System) : (s.setSystem x).cfg = s.cfg := rfl
@[simp] theorem setSystem_mode (s : State) (x : System) : (s.setSystem x).mode = s.mode := rfl
@[simp] theorem setSystem_cmd (s : State) (x : System) : (s.setSystem x).cmd = s.cmd := rfl
@[simp] theorem setSystem_pc (s : State) (x : System) : (s.setSystem x).pc = s.pc := rfl
@[simp] theorem setSystem_pattern (s : State) (x : System) : (s.setSystem x).pattern = s.pattern := rfl
@[simp] theorem setSystem_symIdx (s : State) (x : System) : (s.setSystem x).symIdx = s.symIdx := rfl
@[simp] theorem setSystem_pin (s : State) (x : System) : (s.setSystem x).pin = s.pin := rfl
@[simp] theorem setSystem_trace (s : State) (x : System) : (s.setSystem x).trace = s.trace := rfl
@[simp] theorem setSystem_wave (s : State) (x : System) : (s.setSystem x).wave = s.wave := rfl
@[simp] theorem setSystem_host (s : State) (x : System) : (s.setSystem x).host = s.host := rfl
@[simp] theorem setSystem_answers (s : State) (x : System) : (s.setSystem x).answers = s.answers := rfl
@[simp] theorem setSystem_slacks (s : State) (x : System) : (s.setSystem x).slacks = s.slacks := rfl
@[simp] theorem setSystem_draws (s : State) (x : System) : (s.setSystem x).draws = s.draws := rfl

/-! ### State.popAnswer -/

@[simp] theorem popAnswer_system (s : State) : (s.popAnswer).system = s.system := rfl
@[simp] theorem popAnswer_cfg (s : State) : (s.popAnswer).cfg = s.cfg := rfl
@[simp] theorem popAnswer_mode (s : State) : (s.popAnswer).mode = s.mode := rfl
@[simp] theorem popAnswer_cmd (s : State) : (s.popAnswer).cmd = s.cmd := rfl
@[simp] theorem popAnswer_pc (s : State) : (s.popAnswer).pc = s.pc := rfl
@[simp] theorem popAnswer_pattern (s : State) : (s.popAnswer).pattern = s.pattern := rfl
@[simp] theorem popAnswer_symIdx (s : State) : (s.popAnswer).symIdx = s.symIdx := rfl
@[simp] theorem popAnswer_pin (s : State) : (s.popAnswer).pin = s.pin := rfl
@[simp] theorem popAnswer_trace (s : State) : (s.popAnswer).trace = s.trace := rfl
@[simp] theorem popAnswer_wave (s : State) : (s.popAnswer).wave = s.wave := rfl
@[simp] theorem popAnswer_host (s : State) : (s.popAnswer).host = s.host := rfl
@[simp] theorem popAnswer_answers (s : State) : (s.popAnswer).answers = s.answers.tail := rfl
@[simp] theorem popAnswer_slacks (s : State) : (s.popAnswer).slacks = s.slacks := rfl
@[simp] theorem popAnswer_draws (s : State) : (s.popAnswer).draws = s.draws := rfl

/-! ### State.popSlack -/

@[simp] theorem popSlack_system (s : State) : (s.popSlack).system = s.system := rfl
@[simp] theorem popSlack_cfg (s : State) : (s.popSlack).cfg = s.cfg := rfl
@[simp] theorem popSlack_mode (s : State) : (s.popSlack).mode = s.mode := rfl
@[simp] theorem popSlack_cmd (s : State) : (s.popSlack).cmd = s.cmd := rfl
@[simp] theorem popSlack_pc (s : State) : (s.popSlack).pc = s.pc := rfl
@[simp] theorem popSlack_pattern (s : State) : (s.popSlack).pattern = s.pattern := rfl
@[simp] theorem popSlack_symIdx (s : State) : (s.popSlack).symIdx = s.symIdx := rfl
@[simp] theorem popSlack_pin (s : State) : (s.popSlack).pin = s.pin := rfl
@[simp] theorem popSlack_trace (s : State) : (s.popSlack).trace = s.trace := rfl
@[simp] theorem popSlack_wave (s : State) : (s.popSlack).wave = s.wave := rfl
@[simp] theorem popSlack_host (s : State) : (s.popSlack).host = s.host := rfl
@[simp] theorem popSlack_answers (s : State) : (s.popSlack).answers = s.answers := rfl
@[simp] theorem popSlack_slacks (s : State) : (s.popSlack).slacks = s.slacks.tail := rfl
@[simp] theorem popSlack_draws (s : State) : (s.popSlack).draws = s.draws := rfl

/-! ### State.countDraw -/

@[simp] theorem countDraw_system (s : State) : (s.countDraw).system = s.system := rfl
@[simp] theorem countDraw_cfg (s : State) : (s.countDraw).cfg = s.cfg := rfl
@[simp] theorem countDraw_mode (s : State) : (s.countDraw).mode = s.mode := rfl
@[simp] theorem countDraw_cmd (s : State) : (s.countDraw).cmd = s.cmd := rfl
@[simp] theorem countDraw_pc (s : State) : (s.countDraw).pc = s.pc := rfl
@[simp] theorem countDraw_pattern (s : State) : (s.countDraw).pattern = s.pattern := rfl
@[simp] theorem countDraw_symIdx (s : State) : (s.countDraw).symIdx = s.symIdx := rfl
@[simp] theorem countDraw_pin (s : State) : (s.countDraw).pin = s.pin := rfl
@[simp] theorem countDraw_trace (s : State) : (s.countDraw).trace = s.trace := rfl
@[simp] theorem countDraw_wave (s : State) : (s.countDraw).wave = s.wave := rfl
@[simp] theorem countDraw_host (s : State) : (s.countDraw).host = s.host := rfl
@[simp] theorem countDraw_answers (s : State) : (s.countDraw).answers = s.answers := rfl
@[simp] theorem countDraw_slacks (s : State) : (s.countDraw).slacks = s.slacks := rfl
@[simp] theorem countDraw_draws (s : State) : (s.countDraw).draws = s.draws + 1 := rfl

/-! ### State.toIdle -/

@[simp] theorem toIdle_system (s : State) : (s.toIdle).system = s.system := rfl
@[simp] theorem toIdle_cfg (s : State) : (s.toIdle).cfg = s.cfg := rfl
@[simp] theorem toIdle_mode (s : State) : (s.toIdle).mode = .idle := rfl
@[simp] theorem toIdle_cmd (s : State) : (s.toIdle).cmd = .none := rfl
@[simp] theorem toIdle_pc (s : State) : (s.toIdle).pc = 0 := rfl
@[simp] theorem toIdle_pattern (s : State) : (s.toIdle).pattern = [] := rfl
@[simp] theorem toIdle_symIdx (s : State) : (s.toIdle).symIdx = 0 := rfl
@[simp] theorem toIdle_pin (s : State) : (s.toIdle).pin = s.pin := rfl
@[simp] theorem toIdle_trace (s : State) : (s.toIdle).trace = s.trace := rfl
@[simp] theorem toIdle_wave (s : State) : (s.toIdle).wave = s.wave := rfl
@[simp] theorem toIdle_host (s : State) : (s.toIdle).host = s.host := rfl
@[simp] theorem toIdle_answers (s : State) : (s.toIdle).answers = s.answers := rfl
@[simp] theorem toIdle_slacks (s : State) : (s.toIdle).slacks = s.slacks := rfl
@[simp] theorem toIdle_draws (s : State) : (s.toIdle).draws = s.draws := rfl

/-! ### State.accept -/

@[simp] theorem accept_system (s : State) (c : Cmd) (p : List Char) : (s.accept c p).system = s.system := rfl
@[simp] theorem accept_cfg (s : State) (c : Cmd) (p : List Char) : (s.accept c p).cfg = s.cfg := rfl
@[simp] theorem accept_mode (s : State) (c : Cmd) (p : List Char) : (s.accept c p).mode = .transmitting := rfl
@[simp] theorem accept_cmd (s : State) (c : Cmd) (p : List Char) : (s.accept c p).cmd = c := rfl
@[simp] theorem accept_pc (s : State) (c : Cmd) (p : List Char) : (s.accept c p).pc = 0 := rfl
@[simp] theorem accept_pattern (s : State) (c : Cmd) (p : List Char) : (s.accept c p).pattern = p := rfl
@[simp] theorem accept_symIdx (s : State) (c : Cmd) (p : List Char) : (s.accept c p).symIdx = 0 := rfl
@[simp] theorem accept_pin (s : State) (c : Cmd) (p : List Char) : (s.accept c p).pin = s.pin := rfl
@[simp] theorem accept_trace (s : State) (c : Cmd) (p : List Char) : (s.accept c p).trace = s.trace := rfl
@[simp] theorem accept_wave (s : State) (c : Cmd) (p : List Char) : (s.accept c p).wave = s.wave := rfl
@[simp] theorem accept_host (s : State) (c : Cmd) (p : List Char) : (s.accept c p).host = s.host.tail := rfl
@[simp] theorem accept_answers (s : State) (c : Cmd) (p : List Char) : (s.accept c p).answers = s.answers := rfl
@[simp] theorem accept_slacks (s : State) (c : Cmd) (p : List Char) : (s.accept c p).slacks = s.slacks := rfl
@[simp] theorem accept_draws (s : State) (c : Cmd) (p : List Char) : (s.accept c p).draws = s.draws := rfl

/-! ### State.endCommand -/

@[simp] theorem endCommand_system (s : State) (r : Result) : (s.endCommand r).system = s.system := rfl
@[simp] theorem endCommand_cfg (s : State) (r : Result) : (s.endCommand r).cfg = s.cfg := rfl
@[simp] theorem endCommand_mode (s : State) (r : Result) : (s.endCommand r).mode = .idle := rfl
@[simp] theorem endCommand_cmd (s : State) (r : Result) : (s.endCommand r).cmd = .none := rfl
@[simp] theorem endCommand_pc (s : State) (r : Result) : (s.endCommand r).pc = 0 := rfl
@[simp] theorem endCommand_pattern (s : State) (r : Result) : (s.endCommand r).pattern = [] := rfl
@[simp] theorem endCommand_symIdx (s : State) (r : Result) : (s.endCommand r).symIdx = 0 := rfl
@[simp] theorem endCommand_pin (s : State) (r : Result) : (s.endCommand r).pin = s.pin := rfl
@[simp] theorem endCommand_trace (s : State) (r : Result) : (s.endCommand r).trace = s.trace ++ [.R r] := rfl
@[simp] theorem endCommand_wave (s : State) (r : Result) : (s.endCommand r).wave = s.wave := rfl
@[simp] theorem endCommand_host (s : State) (r : Result) : (s.endCommand r).host = s.host := rfl
@[simp] theorem endCommand_answers (s : State) (r : Result) : (s.endCommand r).answers = s.answers := rfl
@[simp] theorem endCommand_slacks (s : State) (r : Result) : (s.endCommand r).slacks = s.slacks := rfl
@[simp] theorem endCommand_draws (s : State) (r : Result) : (s.endCommand r).draws = s.draws := rfl

/-! ### The draws: only their own inputs change -/

@[simp] theorem afterPinAnswer_system (s : State) : s.afterPinAnswer.system = s.system := by
  unfold State.afterPinAnswer; repeat' split
  all_goals rfl
@[simp] theorem afterPinAnswer_cfg (s : State) : s.afterPinAnswer.cfg = s.cfg := by
  unfold State.afterPinAnswer; repeat' split
  all_goals rfl
@[simp] theorem afterPinAnswer_mode (s : State) : s.afterPinAnswer.mode = s.mode := by
  unfold State.afterPinAnswer; repeat' split
  all_goals rfl
@[simp] theorem afterPinAnswer_cmd (s : State) : s.afterPinAnswer.cmd = s.cmd := by
  unfold State.afterPinAnswer; repeat' split
  all_goals rfl
@[simp] theorem afterPinAnswer_pc (s : State) : s.afterPinAnswer.pc = s.pc := by
  unfold State.afterPinAnswer; repeat' split
  all_goals rfl
@[simp] theorem afterPinAnswer_pattern (s : State) : s.afterPinAnswer.pattern = s.pattern := by
  unfold State.afterPinAnswer; repeat' split
  all_goals rfl
@[simp] theorem afterPinAnswer_symIdx (s : State) : s.afterPinAnswer.symIdx = s.symIdx := by
  unfold State.afterPinAnswer; repeat' split
  all_goals rfl
@[simp] theorem afterPinAnswer_pin (s : State) : s.afterPinAnswer.pin = s.pin := by
  unfold State.afterPinAnswer; repeat' split
  all_goals rfl
@[simp] theorem afterPinAnswer_trace (s : State) : s.afterPinAnswer.trace = s.trace := by
  unfold State.afterPinAnswer; repeat' split
  all_goals rfl
@[simp] theorem afterPinAnswer_wave (s : State) : s.afterPinAnswer.wave = s.wave := by
  unfold State.afterPinAnswer; repeat' split
  all_goals rfl
@[simp] theorem afterPinAnswer_host (s : State) : s.afterPinAnswer.host = s.host := by
  unfold State.afterPinAnswer; repeat' split
  all_goals rfl
@[simp] theorem afterPinAnswer_slacks (s : State) : s.afterPinAnswer.slacks = s.slacks := by
  unfold State.afterPinAnswer; repeat' split
  all_goals rfl

@[simp] theorem afterSlack_system (s : State) : s.afterSlack.system = s.system := by
  unfold State.afterSlack; repeat' split
  all_goals rfl
@[simp] theorem afterSlack_cfg (s : State) : s.afterSlack.cfg = s.cfg := by
  unfold State.afterSlack; repeat' split
  all_goals rfl
@[simp] theorem afterSlack_mode (s : State) : s.afterSlack.mode = s.mode := by
  unfold State.afterSlack; repeat' split
  all_goals rfl
@[simp] theorem afterSlack_cmd (s : State) : s.afterSlack.cmd = s.cmd := by
  unfold State.afterSlack; repeat' split
  all_goals rfl
@[simp] theorem afterSlack_pc (s : State) : s.afterSlack.pc = s.pc := by
  unfold State.afterSlack; repeat' split
  all_goals rfl
@[simp] theorem afterSlack_pattern (s : State) : s.afterSlack.pattern = s.pattern := by
  unfold State.afterSlack; repeat' split
  all_goals rfl
@[simp] theorem afterSlack_symIdx (s : State) : s.afterSlack.symIdx = s.symIdx := by
  unfold State.afterSlack; repeat' split
  all_goals rfl
@[simp] theorem afterSlack_pin (s : State) : s.afterSlack.pin = s.pin := by
  unfold State.afterSlack; repeat' split
  all_goals rfl
@[simp] theorem afterSlack_trace (s : State) : s.afterSlack.trace = s.trace := by
  unfold State.afterSlack; repeat' split
  all_goals rfl
@[simp] theorem afterSlack_wave (s : State) : s.afterSlack.wave = s.wave := by
  unfold State.afterSlack; repeat' split
  all_goals rfl
@[simp] theorem afterSlack_host (s : State) : s.afterSlack.host = s.host := by
  unfold State.afterSlack; repeat' split
  all_goals rfl
@[simp] theorem afterSlack_answers (s : State) : s.afterSlack.answers = s.answers := by
  unfold State.afterSlack; repeat' split
  all_goals rfl

end Sys2Proof.Machine
end

