-- ==== Sys2Proof/Laws/Ops.lean ====
section
/-! SUPPORT. What each shared operation can do, once: the draws, a step as one record, and the moves of a transition. -/

namespace Sys2Proof.Machine

/-! ## The draws -/

@[simp] theorem pinAnswer_infallible (s : State) (h : s.cfg.pinFallible = false) : s.pinAnswer = .ok := by
  simp [State.pinAnswer, h]

@[simp] theorem afterPinAnswer_infallible (s : State) (h : s.cfg.pinFallible = false) : s.afterPinAnswer = s := by
  simp [State.afterPinAnswer, h]

/-- The pin port uses up at most one listed answer or one free value. -/
theorem afterPinAnswer_inputs (s : State) :
    (∃ as, s.answers = as ++ s.afterPinAnswer.answers) ∧ s.draws ≤ s.afterPinAnswer.draws := by
  unfold State.afterPinAnswer
  split
  · split
    · next a as h => exact ⟨⟨[a], by simp [h]⟩, by simp⟩
    · exact ⟨⟨[], by simp⟩, by simp⟩
  · exact ⟨⟨[], rfl⟩, le_rfl⟩

/-- The delay port uses up at most one listed slack or one free value. -/
theorem afterSlack_inputs (s : State) :
    (∃ xs, s.slacks = xs ++ s.afterSlack.slacks) ∧ s.draws ≤ s.afterSlack.draws := by
  unfold State.afterSlack
  split
  · next x xs h => exact ⟨⟨[x], by simp [h]⟩, by simp⟩
  · exact ⟨⟨[], by simp⟩, by simp⟩

/-- A bounded slack obeys its bound. -/
theorem boundSlack_le (m x : Nat) : boundSlack (some m) x ≤ m := by simp [boundSlack]

/-- A slack within the bound is left as it is. -/
theorem boundSlack_eq_self (b : Option Nat) (x : Nat) (h : ∀ m, b = some m → x ≤ m) : boundSlack b x = x := by
  cases b with
  | none => rfl
  | some m => exact Nat.min_eq_left (h m rfl)

/-! ## The pattern store -/

/-- Every code point of a symbol fits the 21 bits of its field. -/
theorem toNat_lt_field (c : Char) : c.toNat < 2 ^ 21 := by
  have h : c.toNat.isValidChar := c.valid
  simp only [Nat.isValidChar] at h
  omega

@[simp] theorem cpField_containerOf (c : Char) : (Container.cpField (containerOf c)).toNat = c.toNat := by
  have h := toNat_lt_field c
  simp only [Container.cpField, containerOf, BitVec.extractLsb'_toNat, BitVec.toNat_append, BitVec.toNat_ofNat]
  simp
  omega

@[simp] theorem zeroField_containerOf (c : Char) : Container.zeroField (containerOf c) = 0 := by
  have h := toNat_lt_field c
  apply BitVec.eq_of_toNat_eq
  simp only [Container.zeroField, containerOf, BitVec.extractLsb'_toNat, BitVec.toNat_append, BitVec.toNat_ofNat,
    Nat.shiftRight_eq_div_pow]
  simp

@[simp] theorem isSymbol_containerOf (c : Char) : Container.isSymbol (containerOf c) = true := by
  have h : c.toNat.isValidChar := c.valid
  simp only [Nat.isValidChar] at h
  simp [Container.isSymbol]
  omega

/-- A symbol's container holds that symbol. -/
@[simp] theorem symbolOf_containerOf (c : Char) : symbolOf (containerOf c) = some c := by
  simp [symbolOf, Char.ofNat_toNat]

/-- The pattern store is well formed, whatever operation gave it: its type admits only scalar values. -/
theorem memory_wf (m : Memory) : m.wf = true := by simp [Memory.wf]

/-- Construction, acceptance and return leave a well-formed pattern store, and no other operation writes it. -/
theorem construct_wf (cfg : Configuration) (l : Level) : (State.construct cfg l).pattern.wf = true := memory_wf _

/-- A read inside the store gives a symbol, and only such a read does (20_memory.md R32, R34). -/
theorem read_isSome_iff (m : Memory) (i : Nat) : (m.read i).isSome = true ↔ i < m.length := by simp [Memory.read]

/-! ## Step lists -/

@[simp] theorem patternSteps_nil (cfg : Configuration) : patternSteps cfg [] = [] := rfl

@[simp] theorem patternSteps_cons (cfg : Configuration) (c : Char) (p : List Char) :
    patternSteps cfg (c :: p) = symSteps cfg (symClass c) ++ patternSteps cfg p := by
  simp [patternSteps]

@[simp] theorem patternSteps_append (cfg : Configuration) (p q : List Char) :
    patternSteps cfg (p ++ q) = patternSteps cfg p ++ patternSteps cfg q := by
  simp [patternSteps]

/-- The width of a symbol is the length of its step list. -/
theorem length_symSteps (cfg : Configuration) (c : Char) : (symSteps cfg (symClass c)).length = symWidth c := by
  unfold symWidth
  cases symClass c <;> rfl

/-! ## A step as one record -/

/-- What a step of a step list does is what the rules say, written as one record. -/
theorem takeStep_eq_afterStep (s : State) (st : Step) : s.takeStep st = s.afterStep st := by
  cases st with
  | W l =>
    simp only [State.takeStep, State.pinWrite, State.afterStep, State.afterWrite]
    cases s.pinAnswer with
    | ok => simp [State.setPin, State.emit, State.advance]
    | err x =>
      simp only [State.raisePinFault, setPin_cfg, emit_cfg, afterPinAnswer_cfg]
      cases s.cfg.faultPolicy <;>
        simp [statusOnPinFault, State.endCommand, State.toIdle, State.setPin, State.emit, State.advance]
  | D n => simp [State.takeStep, State.waitUs, State.afterStep, State.afterWait, State.addSpan, State.emit, State.advance]

/-- The events a step records: one W or D, and R(ERR) after a failed write under PROPAGATE. -/
def stepEvents (s : State) : Step → List Event
  | .W l =>
    match s.pinAnswer, s.cfg.faultPolicy with
    | .ok, _ => [.W l .ok]
    | .err _, .suppress => [.W l .err]
    | .err _, .propagate => [.W l .err, .R .err]
  | .D n => [.D n]

/-- The level of the pin after a step. -/
def stepPin (s : State) : Step → Level
  | .W l =>
    match s.pinAnswer with
    | .ok => l
    | .err x => x
  | .D _ => s.pin

/-- A step records its events and leaves the pin at its level. -/
theorem afterStep_events (s : State) (st : Step) :
    (s.afterStep st).trace = s.trace ++ stepEvents s st ∧ (s.afterStep st).pin = stepPin s st := by
  cases st with
  | W l =>
    simp only [State.afterStep, State.afterWrite, stepEvents, stepPin]
    cases s.pinAnswer with
    | ok => simp
    | err x => cases s.cfg.faultPolicy <;> simp
  | D n => simp [State.afterStep, State.afterWait, stepEvents, stepPin]

/-- What no step of a step list changes. -/
theorem afterStep_frame (s : State) (st : Step) :
    (s.afterStep st).cfg = s.cfg ∧ (s.afterStep st).system = s.system ∧ (s.afterStep st).host = s.host := by
  cases st with
  | W l =>
    simp only [State.afterStep, State.afterWrite]
    cases s.pinAnswer with
    | ok => simp
    | err x => cases s.cfg.faultPolicy <;> simp
  | D n => simp [State.afterStep, State.afterWait]

/-- A step goes on to the next position, or (a failed write under PROPAGATE) ends the command. -/
theorem afterStep_position (s : State) (st : Step) :
    ((s.afterStep st).mode = s.mode ∧ (s.afterStep st).cmd = s.cmd ∧ (s.afterStep st).pc = s.pc + 1 ∧
      (s.afterStep st).pattern = s.pattern ∧ (s.afterStep st).symIdx = s.symIdx) ∨
    ((∃ l x, st = .W l ∧ s.pinAnswer = .err x ∧ s.cfg.faultPolicy = .propagate) ∧
      (s.afterStep st).mode = .idle ∧ (s.afterStep st).cmd = .none ∧ (s.afterStep st).pc = 0 ∧
      (s.afterStep st).pattern = [] ∧ (s.afterStep st).symIdx = 0) := by
  cases st with
  | W l =>
    simp only [State.afterStep, State.afterWrite]
    cases s.pinAnswer with
    | ok => simp
    | err x => cases s.cfg.faultPolicy <;> simp
  | D n => simp [State.afterStep, State.afterWait]

theorem endCommand_ok_eq_afterReturn (s : State) : s.endCommand statusOnReturn = s.afterReturn := rfl

/-- The step at the position, when the list has one there. -/
theorem stepFrom_eq (s : State) (base : Nat) (steps : List Step) (st : Step)
    (hb : base ≤ s.pc) (h : steps[s.pc - base]? = some st) : s.stepFrom base steps = some (s.afterStep st) := by
  simp [State.stepFrom, hb, h, takeStep_eq_afterStep]

/-- What `stepFrom` can do. -/
theorem stepFrom_cases (s : State) (base : Nat) (steps : List Step) (t : State)
    (h : s.stepFrom base steps = some t) :
    ∃ st, base ≤ s.pc ∧ steps[s.pc - base]? = some st ∧ t = s.afterStep st := by
  unfold State.stepFrom at h
  split at h
  · next hb =>
    split at h
    · next st hst => exact ⟨st, hb, hst, by simpa [takeStep_eq_afterStep] using h.symm⟩
    · cases h
  · cases h

/-- What the rest of a step list can do: its step at the position, or the return. -/
theorem stepOrReturn_cases (s : State) (base : Nat) (steps : List Step) (t : State)
    (h : s.stepOrReturn base steps = .next t) :
    (s.pc = base + steps.length ∧ t = s.afterReturn) ∨
    (∃ st, base ≤ s.pc ∧ steps[s.pc - base]? = some st ∧ t = s.afterStep st) := by
  unfold State.stepOrReturn at h
  split at h
  · next hp => exact .inl ⟨hp, by simpa [endCommand_ok_eq_afterReturn] using h.symm⟩
  · right
    cases hs : s.stepFrom base steps with
    | none => simp [hs, outcomeOf] at h
    | some u =>
      obtain ⟨st, hb, hst, rfl⟩ := stepFrom_cases s base steps u hs
      exact ⟨st, hb, hst, by simpa [hs, outcomeOf] using h.symm⟩

/-- What a step of a data symbol can do. -/
theorem symbolStep_cases (s : State) (c : SymClass) (t : State) (h : s.symbolStep c = .next t) :
    s.sending = true ∧ ∃ st, s.symBase ≤ s.pc ∧ (symSteps s.cfg c)[s.pc - s.symBase]? = some st ∧
      t = if s.pc + 1 = s.symBase + (symSteps s.cfg c).length then (s.afterStep st).nextSymbol else s.afterStep st := by
  unfold State.symbolStep at h
  split at h
  · next hs =>
    refine ⟨hs, ?_⟩
    split at h
    · next u hu =>
      obtain ⟨st, hb, hst, rfl⟩ := stepFrom_cases _ _ _ u hu
      refine ⟨st, hb, hst, ?_⟩
      split at h
      · next hp => simpa [hp] using h.symm
      · next hp => simpa [hp] using h.symm
    · cases h
  · cases h

/-- The last step of a data symbol is a wait, so it never ends the command. -/
theorem symSteps_last (cfg : Configuration) (c : SymClass) (j : Nat) (st : Step)
    (h : (symSteps cfg c)[j]? = some st) (hj : j + 1 = (symSteps cfg c).length) : ∃ n, st = .D n := by
  cases c with
  | one =>
    obtain rfl : j = 3 := by simpa [symSteps] using hj
    exact ⟨_, by simpa [symSteps] using h.symm⟩
  | zero =>
    obtain rfl : j = 3 := by simpa [symSteps] using hj
    exact ⟨_, by simpa [symSteps] using h.symm⟩
  | sep => simp [symSteps] at h

/-- Skipping a symbol does not change what a step does, but for the symbol index. -/
theorem afterStep_nextSymbol (s : State) (st : Step) (k : Nat) :
    ({ (s.nextSymbol).afterStep st with symIdx := k } : State) = { s.afterStep st with symIdx := k } := by
  have ha : s.nextSymbol.pinAnswer = s.pinAnswer := rfl
  have hp : s.nextSymbol.afterPinAnswer = s.afterPinAnswer.nextSymbol := by
    by_cases hf : s.cfg.pinFallible = true
    · cases hs : s.answers <;> simp [State.afterPinAnswer, hf, hs, State.popAnswer, State.countDraw, State.nextSymbol]
    · simp [State.afterPinAnswer, hf]
  have hw : s.nextSymbol.afterSlack = s.afterSlack.nextSymbol := by
    cases hs : s.slacks <;> simp [State.afterSlack, hs, State.popSlack, State.countDraw, State.nextSymbol]
  cases st with
  | W l =>
    simp only [State.afterStep, State.afterWrite, ha, hp]
    cases s.pinAnswer with
    | ok => rfl
    | err x => simp only [nextSymbol_cfg]; cases s.cfg.faultPolicy <;> rfl
  | D n => simp only [State.afterStep, State.afterWait, hw]; rfl

/-- The symbol index after a step: 0 if the step ended the command, else not below the one before. -/
def IndexAfter (s : State) (st : Step) (k : Nat) : Prop :=
  ((s.afterStep st).mode = .idle → k = 0) ∧ ((s.afterStep st).mode ≠ .idle → s.symIdx ≤ k)

/-- What a step of a data symbol can do, but for the symbol index. -/
theorem symbolStep_work (s : State) (c : SymClass) (t : State) (h : s.symbolStep c = .next t) :
    ∃ st k, t = { s.afterStep st with symIdx := k } ∧ IndexAfter s st k := by
  obtain ⟨hs, st, hb, hst, rfl⟩ := symbolStep_cases s c t h
  have hm : s.mode ≠ .idle := by
    have := hs
    simp only [State.sending, Bool.and_eq_true, beq_iff_eq] at this
    simp [this.1]
  by_cases hp : s.pc + 1 = s.symBase + (symSteps s.cfg c).length
  · obtain ⟨n, rfl⟩ := symSteps_last s.cfg c _ st hst (by omega)
    refine ⟨.D n, s.symIdx + 1, ?_, fun hi => absurd hi ?_, fun _ => by omega⟩
    · simp [hp, State.afterStep, State.afterWait, State.nextSymbol]
    · simpa [State.afterStep, State.afterWait] using hm
  · refine ⟨st, (s.afterStep st).symIdx, by simp [hp], ?_⟩
    obtain ⟨h1, -, -, -, h5⟩ | ⟨-, h1, -, -, -, h5⟩ := afterStep_position s st
    · exact ⟨fun hi => absurd (h1 ▸ hi) hm, fun _ => by omega⟩
    · exact ⟨fun _ => h5, fun hi => absurd h1 hi⟩

/-- What the rest of a SEND can do: one step, or the return. -/
theorem sendLoop_cases (n : Nat) (s t : State) (hs : s.mode = .transmitting) (h : sendLoop n s = .next t) :
    t = s.afterReturn ∨ ∃ st k, t = { s.afterStep st with symIdx := k } ∧ IndexAfter s st k := by
  induction n generalizing s with
  | zero =>
    obtain ⟨-, rfl⟩ | ⟨st, -, -, rfl⟩ := stepOrReturn_cases _ _ _ _ h
    · exact .inl rfl
    · refine .inr ⟨st, (s.afterStep st).symIdx, rfl, ?_⟩
      obtain ⟨h1, -, -, -, h5⟩ | ⟨-, h1, -, -, -, h5⟩ := afterStep_position s st
      · exact ⟨fun hi => by simp [h1, hs] at hi, fun _ => by omega⟩
      · exact ⟨fun _ => h5, fun hi => absurd h1 hi⟩
  | succ n ih =>
    simp only [sendLoop] at h
    split at h
    · cases h
    · split at h
      · exact .inr (symbolStep_work s _ t h)
      · exact .inr (symbolStep_work s _ t h)
      · split at h
        · next u hu =>
          have hu' : u = s.nextSymbol := by
            unfold execSymSep at hu
            split at hu
            · simpa using hu.symm
            · cases hu
          subst hu'
          obtain rfl | ⟨st, k, rfl, hk⟩ := ih s.nextSymbol hs h
          · exact .inl rfl
          · refine .inr ⟨st, k, afterStep_nextSymbol s st k, ?_⟩
            have hmode : (s.nextSymbol.afterStep st).mode = (s.afterStep st).mode := by
              simpa using congrArg State.mode (afterStep_nextSymbol s st 0)
            simp only [IndexAfter, hmode, nextSymbol_symIdx] at hk
            exact ⟨hk.1, fun hi => Nat.le_of_succ_le (hk.2 hi)⟩
        · cases h
        · cases h

/-! ## The moves of a transition -/

/-- Everything one transition of a constructed block can do. -/
inductive Moves (s : State) : State → Prop where
  | stay : s.mode = .idle → s.host = [] → Moves s s
  | accept (c : CmdWord) (rest : List HostAct) (k : Cmd) (p : List Char) :
      s.mode = .idle → s.host = .cmd c :: rest → k ≠ .none → (k = .start → p = []) → Moves s (s.accept k p)
  | pause (us : Nat) (rest : List HostAct) :
      s.mode = .idle → s.host = .pause us :: rest → Moves s (s.addSpan (.idle s.pin us)).popHost
  | finish : s.mode = .transmitting → s.cmd ≠ .none → Moves s s.afterReturn
  | work (st : Step) (k : Nat) :
      s.mode = .transmitting → s.cmd ≠ .none → IndexAfter s st k → Moves s { s.afterStep st with symIdx := k }

/-- What the decoder reads from a command word. -/
theorem decode_cmd_cases (c : CmdWord) (i : Instr) (h : decode (.cmd c) = .ok i) : i = .start ∨ ∃ p, i = .send p := by
  simp only [decode] at h
  split at h
  · exact .inl (by simpa using h.symm)
  · split at h
    · next p _ => exact .inr ⟨p, by simpa using h.symm⟩
    · cases h

/-- A transition of bring-up. -/
theorem step_booting (s : State) (b : BootProgress) (acts : List BootAct) (h : s.system = .booting b acts) :
    step s = .next (s.setSystem (b.next acts)) := by
  simp [step, transition, h]

/-- A step that answers a next state is one of these moves, of a running system, or a transition of bring-up. -/
theorem step_moves (s t : State) (h : step s = .next t) :
    (s.system = .running ∧ Moves s t) ∨
      ∃ b acts, s.system = .booting b acts ∧ t = s.setSystem (b.next acts) := by
  unfold step transition at h
  split at h
  · next b acts hb => exact .inr ⟨b, acts, hb, by simpa using h.symm⟩
  · cases h
  · next hrun =>
    refine .inl ⟨hrun, ?_⟩
    split at h
    · next hmode =>
      unfold hostTransition at h
      split at h
      · next hh =>
        obtain rfl : s = t := by simpa using h
        exact .stay hmode hh
      · next c rest hh =>
        split at h
        · next i hi =>
          obtain rfl | ⟨p, rfl⟩ := decode_cmd_cases c i hi
          · obtain rfl : s.accept .start [] = t := by simpa [exec, execStart, hmode] using h
            exact .accept c rest .start [] hmode hh (by simp) (by simp)
          · obtain rfl : s.accept .send p = t := by simpa [exec, execSend, hmode] using h
            exact .accept c rest .send p hmode hh (by simp) (by simp)
        · cases h
      · next us rest hh =>
        obtain rfl : (s.addSpan (.idle s.pin us)).popHost = t := by simpa using h
        exact .pause us rest hmode hh
    · next hmode =>
      split at h
      · cases h
      · next hcmd =>
        have h' : s.stepOrReturn 0 (startSteps s.cfg) = .next t := by simpa [exec, execStart, hmode, hcmd] using h
        obtain ⟨-, rfl⟩ | ⟨st, -, -, rfl⟩ := stepOrReturn_cases _ _ _ _ h'
        · exact .finish hmode (by simp [hcmd])
        · refine .work st (s.afterStep st).symIdx hmode (by simp [hcmd]) ?_
          obtain ⟨h1, -, -, -, h5⟩ | ⟨-, h1, -, -, -, h5⟩ := afterStep_position s st
          · exact ⟨fun hi => by simp [h1, hmode] at hi, fun _ => by omega⟩
          · exact ⟨fun _ => h5, fun hi => absurd h1 hi⟩
      · next hcmd =>
        have h' : sendLoop (s.pattern.length - s.symIdx) s = .next t := by simpa [exec, execSend, hmode, hcmd] using h
        obtain rfl | ⟨st, k, rfl, hk⟩ := sendLoop_cases _ _ _ hmode h'
        · exact .finish hmode (by simp [hcmd])
        · exact .work st k hmode (by simp [hcmd]) hk

/-- What a step of a step list adds to the waveform and uses of the inputs. -/
theorem afterStep_history (s : State) (st : Step) :
    (∃ ws, (s.afterStep st).wave = s.wave ++ ws) ∧ (∃ as, s.answers = as ++ (s.afterStep st).answers) ∧
    (∃ xs, s.slacks = xs ++ (s.afterStep st).slacks) ∧ s.draws ≤ (s.afterStep st).draws := by
  obtain ⟨a1, a2⟩ := afterPinAnswer_inputs s
  obtain ⟨b1, b2⟩ := afterSlack_inputs s
  cases st with
  | W l =>
    simp only [State.afterStep, State.afterWrite]
    cases s.pinAnswer with
    | ok =>
      simp only [afterPinAnswer_wave, afterPinAnswer_slacks]
      exact ⟨⟨[], by simp⟩, a1, ⟨[], rfl⟩, a2⟩
    | err x =>
      cases s.cfg.faultPolicy <;>
        (simp only [afterPinAnswer_wave, afterPinAnswer_slacks]
         exact ⟨⟨[], by simp⟩, a1, ⟨[], rfl⟩, a2⟩)
  | D n =>
    simp only [State.afterStep, State.afterWait, afterSlack_answers]
    exact ⟨⟨_, rfl⟩, ⟨[], rfl⟩, b1, b2⟩

/-- Everything a meaning can do: nothing, an acceptance, a separator consumed, the return, or one step. -/
theorem exec_cases (i : Instr) (s t : State) (h : exec i s = .next t) :
    t = s ∨ (s.mode = .idle ∧ ∃ k p, t = s.accept k p) ∨ (s.sending = true ∧ t = s.nextSymbol) ∨
      (s.mode = .transmitting ∧
        (t = s.afterReturn ∨ ∃ st k, t = { s.afterStep st with symIdx := k } ∧ IndexAfter s st k)) := by
  have symbol : ∀ c, s.symbolStep c = .next t →
      s.mode = .transmitting ∧ ∃ st k, t = { s.afterStep st with symIdx := k } ∧ IndexAfter s st k := by
    intro c hc
    have hs := (symbolStep_cases s c t hc).1
    simp only [State.sending, Bool.and_eq_true, beq_iff_eq] at hs
    exact ⟨hs.1, symbolStep_work s c t hc⟩
  cases i with
  | start =>
    simp only [exec, execStart] at h
    split at h
    · next hm => exact .inr (.inl ⟨hm, .start, [], by simpa using h.symm⟩)
    · next hm =>
      split at h
      · refine .inr (.inr (.inr ⟨hm, ?_⟩))
        obtain ⟨-, rfl⟩ | ⟨st, -, -, rfl⟩ := stepOrReturn_cases _ _ _ _ h
        · exact .inl rfl
        · refine .inr ⟨st, (s.afterStep st).symIdx, rfl, ?_⟩
          obtain ⟨h1, -, -, -, h5⟩ | ⟨-, h1, -, -, -, h5⟩ := afterStep_position s st
          · exact ⟨fun hi => by simp [h1, hm] at hi, fun _ => by omega⟩
          · exact ⟨fun _ => h5, fun hi => absurd h1 hi⟩
      · exact .inl (by simpa using h.symm)
  | send p =>
    simp only [exec, execSend] at h
    split at h
    · next hm => exact .inr (.inl ⟨hm, .send, p, by simpa using h.symm⟩)
    · next hm =>
      split at h
      · exact .inr (.inr (.inr ⟨hm, sendLoop_cases _ s t hm h⟩))
      · exact .inl (by simpa using h.symm)
  | symOne =>
    obtain ⟨hm, hw⟩ := symbol _ h
    exact .inr (.inr (.inr ⟨hm, .inr hw⟩))
  | symZero =>
    obtain ⟨hm, hw⟩ := symbol _ h
    exact .inr (.inr (.inr ⟨hm, .inr hw⟩))
  | symSep c =>
    simp only [exec, execSymSep] at h
    split at h
    · next hs => exact .inr (.inr (.inl ⟨hs, by simpa using h.symm⟩))
    · cases h

/-! ## Runs -/

/-- A run of `n + k` steps is a run of `n` and then a run of `k`. -/
theorem stepN_add (n k : Nat) (s t : State) (h : stepN n s = .next t) : stepN (n + k) s = stepN k t := by
  induction n generalizing s with
  | zero =>
    obtain rfl : s = t := by simpa [stepN] using h
    simp
  | succ n ih =>
    rw [Nat.succ_add]
    simp only [stepN] at h ⊢
    split at h
    · next u hu => simpa [hu] using ih u h
    · cases h
    · cases h

end Sys2Proof.Machine
end

