-- ==== Sys2Proof/Laws/PerInstr.lean ====
section
/-! SUPPORT. The statement that is made per instruction: what an instruction encodes to can be formed (30_encoding.md R46, R48). -/

namespace Sys2Proof

/-- Every container of the code is a symbol's: bits 31:21 zero, a scalar value below. -/
def Laws.Formable.Statement (i : Instr) : Prop :=
  match encode i with
  | .cmd ⟨_, .scalars ws⟩ => ws.all Container.isSymbol = true
  | .cmd ⟨_, .bytes _⟩ => False
  | .sym w => Container.isSymbol w = true

theorem Laws.Formable.start : Laws.Formable.Statement .start := rfl

theorem Laws.Formable.send (pattern : List Char) : Laws.Formable.Statement (.send pattern) := by
  simp [Laws.Formable.Statement, encode]

theorem Laws.Formable.symOne : Laws.Formable.Statement .symOne := rfl

theorem Laws.Formable.symZero : Laws.Formable.Statement .symZero := rfl

theorem Laws.Formable.symSep (cp : Char) : Laws.Formable.Statement (.symSep cp) :=
  Machine.isSymbol_containerOf cp

end Sys2Proof
end

