-- ==== Sys2Proof/Tests/Slice0.lean ====
section
/-! SUPPORT. Small tests, with results from 95_test_vectors.md or worked out from the rules cited, and the witnesses of the
statements: concrete states and operands that meet their hypotheses. -/

namespace Sys2Proof.Tests

open Sys2Proof Sys2Proof.Machine

/-! ## Helpers -/

def nextOf : Outcome → Option State
  | .next t => some t
  | .fault _ => none
  | .refused _ => none

/-- The configuration with a fallible pin and a policy. -/
def fallible (p : FaultPolicy) : Configuration :=
  { Configuration.reference with pinFallible := true, faultPolicy := p }

/-- An idle block whose host has these acts to come. -/
def idleWith (acts : List HostAct) : State := { State.reset with host := acts }

/-- START at a step index. -/
def inStart (cfg : Configuration) (l : Level) (pc : Nat) : State :=
  { State.construct cfg l with mode := .transmitting, cmd := .start, pc := pc }

/-- SEND of a pattern at a symbol index and a step index. -/
def inSend (cfg : Configuration) (l : Level) (p : List Char) (i pc : Nat) : State :=
  { State.construct cfg l with mode := .transmitting, cmd := .send, pattern := p, symIdx := i, pc := pc }

/-! ## Well-formedness: a separator is neither '1' nor '0' (30_encoding.md R49) -/

theorem test_wellFormed_refuses_one : (Instr.symSep '1').wellFormed = false := by decide
theorem test_wellFormed_refuses_zero : (Instr.symSep '0').wellFormed = false := by decide
theorem test_wellFormed_takes_space : (Instr.symSep ' ').wellFormed = true := by decide

/-! ## Decoding: words written out from 30_encoding.md R46, R48, R52 and 95_test_vectors.md sections 2.1, 2.2 -/

theorem test_decode_start : decode (.cmd ⟨0b0#1, .scalars []⟩) = .ok .start := by decide
theorem test_decode_send :
    decode (.cmd ⟨0b1#1, .scalars [0b00000000000000000000000000110001#32, 0b00000000000000000000000000100000#32]⟩) =
      .ok (.send ['1', ' ']) := by decide
theorem test_decode_symOne : decode (.sym 0b00000000000000000000000000110001#32) = .ok .symOne := by decide
theorem test_decode_symZero : decode (.sym 0b00000000000000000000000000110000#32) = .ok .symZero := by decide
theorem test_decode_symSep : decode (.sym 0b00000000000000001111111100010001#32) = .ok (.symSep (Char.ofNat 0xFF11)) := by
  decide
theorem test_decode_whole_code_point : decode (.sym 0x00000130#32) = .ok (.symSep (Char.ofNat 0x130)) := by decide
theorem test_decode_last_scalar : decode (.sym 0x0010FFFF#32) = .ok (.symSep (Char.ofNat 0x10FFFF)) := by decide
theorem test_decode_refuses_surrogate : decode (.sym 0x0000D800#32) = .error (.notAScalarValue 0x0000D800#32) := by decide
theorem test_decode_refuses_high_bits : decode (.sym 0x00200031#32) = .error (.notAScalarValue 0x00200031#32) := by decide
/-- The pattern "é1" as UTF-8, C3 A9 31: SEP SEP ONE (95_test_vectors.md section 2.1). -/
theorem test_decode_bytes :
    (decode (.cmd ⟨1#1, .bytes [0xC3#8, 0xA9#8, 0x31#8]⟩)).map (fun i => match i with
      | .send p => p.map symClass
      | _ => []) = .ok [.sep, .sep, .one] := by decide
theorem test_utf8 : utf8 'é' = [0xC3#8, 0xA9#8] ∧ utf8 (Char.ofNat 0xFF11) = [0xEF#8, 0xBC#8, 0x91#8] := by decide
theorem test_encode_symSep : encode (.symSep ' ') = .sym 0x00000020#32 := by decide
theorem test_tableWord :
    decodeTableWord 8 0 = some .start ∧ decodeTableWord 8 1 = some (.send []) ∧ decodeTableWord 32 0x31 = some .symOne ∧
      decodeTableWord 32 0x30 = some .symZero ∧ decodeTableWord 32 0x20 = some (.symSep ' ') := by decide

/-! ## One step each -/

/-- 95_test_vectors.md S2: START writes HIGH though the pin is HIGH already. -/
theorem test_start_writes_high :
    (nextOf (step (inStart Configuration.reference .high 0))).map (fun t => (t.trace, t.pin, t.pc)) =
      some ([.W .high .ok], .high, 1) := by decide
/-- 95_test_vectors.md S6: the second write of START fails under PROPAGATE. -/
theorem test_start_propagates :
    (nextOf (step { inStart (fallible .propagate) .high 2 with answers := [.err .high] })).map
      (fun t => (t.trace, t.pin, t.mode, t.pc)) = some ([.W .low .err, .R .err], .high, .idle, 0) := by decide
/-- 95_test_vectors.md WE3 with PIN_INIT = HIGH: the gap runs at HIGH, without a pin write. -/
theorem test_send_gap_keeps_level :
    (nextOf (step (inSend Configuration.reference .high [] 0 0))).map (fun t => (t.trace, levelTrace t.wave, t.pin)) =
      some ([.D 7000], [(.high, 7000)], .high) := by decide
/-- 95_test_vectors.md section 2.5: leading separators take no step. -/
theorem test_send_skips_separators :
    (nextOf (step (inSend Configuration.reference .low [' ', 'x', '0'] 0 0))).map (fun t => (t.trace, t.symIdx, t.pc)) =
      some ([.W .high .ok], 2, 1) := by decide
/-- 41_symbols.md R77: the last step of SYM_ONE waits 247 µs and consumes the symbol. -/
theorem test_symOne_last_step :
    (nextOf (exec .symOne (inSend Configuration.reference .low ['0', '1'] 1 7))).map (fun t => (t.trace, t.symIdx, t.pc)) =
      some ([.D 247], 2, 8) := by decide
/-- 95_test_vectors.md F4: the second write of SYM_ZERO fails under SUPPRESS and the command goes on. -/
theorem test_symZero_suppressed :
    (nextOf (exec .symZero { inSend (fallible .suppress) .high ['0'] 0 2 with answers := [.err .high] })).map
      (fun t => (t.trace, t.pin, t.pc, t.mode)) = some ([.W .low .err], .high, 3, .transmitting) := by decide
/-- 41_symbols.md R79: a separator has no event. -/
theorem test_symSep_no_event :
    (nextOf (exec (.symSep ' ') (inSend Configuration.reference .low [' '] 0 0))).map (fun t => (t.trace, t.symIdx, t.pc)) =
      some ([], 1, 0) := by decide
/-- 95_test_vectors.md section 2.7: with MAX_SLACK_US = 20 a wait of 741 µs lasts at most 761 µs. -/
theorem test_wait_is_bounded :
    (({ inSend { Configuration.reference with maxSlack := some 20 } .high ['1'] 0 1 with slacks := [35] } : State).waitUs
      741).wave = [.wait .high 741 761] := by decide
/-- 95_test_vectors.md WE1. -/
theorem test_expand_10 :
    sendSteps Configuration.reference ['1', '0'] =
      [.W .high, .D 741, .W .low, .D 247, .W .high, .D 247, .W .low, .D 741, .D 7000] := by decide
/-- 95_test_vectors.md WE5: 48 characters, 15 ones, 26 zeros. -/
theorem test_frame_counts :
    referenceFrame.length = 48 ∧ countClass .one referenceFrame = 15 ∧ countClass .zero referenceFrame = 26 := by
  decide +kernel
/-- The record of Program 3 of 95_test_vectors.md: the write of step 4 failed. -/
theorem test_faults_in_trace :
    pinFaults [.W .high .ok, .D 247, .W .low .ok, .D 741, .W .high .err, .R .err, .W .high .ok] = [⟨.high, 4⟩] := by decide
/-- 70_reset_and_hazards.md R112: steps 3 and 4 in the other order. -/
theorem test_boot_constructs :
    stepN 5 (State.powerOn Configuration.reference .high [.board true, .acquire true, .pin true, .delay true]) =
      .next (State.construct Configuration.reference .high) := rfl
/-- 60_exceptions.md R88. -/
theorem test_boot_second_call_halts :
    stepN 3 (State.powerOn Configuration.reference .low [.acquire true, .acquire true]) = .fault .doubleAcquisition := rfl

/-! ## Witnesses of the statements' hypotheses -/

theorem witness_DecodeOfEncodeIsTheInstruction : (Instr.symSep (Char.ofNat 0x10FFFF)).wellFormed = true := by decide
theorem witness_DecoderTakesTheFirstFittingRow : decode (.sym 0x31#32) = .ok .symOne := by decide
theorem witness_UnformableSymbolIsRefused :
    (idleWith [.cmd ⟨1, .scalars [0x31#32, 0xDFFF#32]⟩]).presented (.cmd ⟨1, .scalars [0x31#32, 0xDFFF#32]⟩) [] ∧
      ∃ w ∈ [0x31#32, 0xDFFF#32], Container.isSymbol w = false :=
  ⟨⟨rfl, rfl, rfl⟩, 0xDFFF#32, by decide, by decide⟩
theorem witness_HaltedSystemStops :
    (State.reset.setSystem (.halted .peripheralAcquisition)).system = .halted .peripheralAcquisition ∧
      (State.reset.setSystem (.halted .doubleAcquisition)).system = .halted .doubleAcquisition := by decide
theorem witness_SecondAcquisitionHalts :
    (State.reset.setSystem (.booting ⟨true, true, true, true⟩ [.acquire true])).system =
      .booting ⟨true, true, true, true⟩ (.acquire true :: []) := by decide
theorem witness_FailedBringUpHalts :
    (State.powerOn Configuration.reference .low [.board true, .acquire true, .pin false]).system =
      .booting BootProgress.powerOn ([.board true, .acquire true] ++ .pin false :: []) ∧
    (∀ x ∈ [BootAct.board true, BootAct.acquire true],
      x = .board true ∨ x = .delay true ∨ x = .pin true ∨ x = .acquire true) ∧
    [BootAct.board true, BootAct.acquire true].count (.acquire true) + [BootAct.pin false].count (.acquire false) ≤ 1 ∧
    [BootAct.board true].count (.acquire true) + [BootAct.acquire false].count (.acquire false) ≤ 1 := by decide
theorem witness_ConstructionNeedsBringUp :
    (State.powerOn Configuration.reference .low [.pin true, .delay true, .acquire true, .board true]).system =
      .booting BootProgress.powerOn [.pin true, .delay true, .acquire true, .board true] ∧
    [BootAct.pin true, .delay true, .acquire true, .board true].count (.acquire true) = 1 ∧
    stepN 5 (State.powerOn Configuration.reference .low [.pin true, .delay true, .acquire true, .board true]) =
      .next (State.construct Configuration.reference .low) ∧
    (State.construct Configuration.reference .low).system = .running :=
  ⟨rfl, by decide, rfl, rfl⟩
theorem witness_FatalFaultsPrecedeConstruction :
    State.reset.system = .running ∧ (nextOf (step State.reset)).isSome = true ∧
      (State.powerOn Configuration.reference .low [.board true]).system ≠ .running ∧
      (nextOf (step (State.powerOn Configuration.reference .low [.board true]))).isSome = true := by decide
theorem witness_StepRunsTheDecodedInstruction_idle :
    (idleWith [sendAct ['1']]).presented (.cmd ⟨1, .scalars [containerOf '1']⟩) [] ∧
      decode (.cmd ⟨1, .scalars [containerOf '1']⟩) = .ok (.send ['1']) :=
  ⟨⟨rfl, rfl, rfl⟩, by decide⟩
theorem witness_StepRunsTheDecodedInstruction_start :
    (inStart Configuration.reference .low 4).system = .running ∧ (inStart Configuration.reference .low 4).mode = .transmitting ∧
      (inStart Configuration.reference .low 4).cmd = .start := by decide
theorem witness_StepRunsTheDecodedInstruction_symbols :
    (inSend Configuration.reference .low ['1', ' '] 1 4).sending = true ∧
      (inSend Configuration.reference .low ['1', ' '] 1 4).pattern.read 1 = some ' ' ∧
      decode (.sym (containerOf ' ')) = .ok (.symSep ' ') ∧
      (inSend Configuration.reference .low ['1', ' '] 0 3).pattern.read 0 = some '1' ∧
      decode (.sym (containerOf '1')) = .ok .symOne := by decide
theorem witness_CommandAcceptance :
    State.reset.mode = .idle ∧ (inStart Configuration.reference .low 0).mode = .transmitting ∧
      (nextOf (step (inStart Configuration.reference .low 0))).isSome = true := by decide
theorem witness_OtherCommandIsHeld :
    (inStart Configuration.reference .low 0).mode = .transmitting ∧ (inStart Configuration.reference .low 0).cmd ≠ .send ∧
      (inSend Configuration.reference .low [] 0 0).mode = .transmitting ∧
      (inSend Configuration.reference .low [] 0 0).cmd ≠ .start := by decide
theorem witness_IdleBlockWaitsForItsHost :
    State.reset.system = .running ∧ State.reset.host = [] ∧ (idleWith [.pause 1000000]).presented (.pause 1000000) [] :=
  ⟨rfl, rfl, rfl, rfl, rfl⟩
theorem witness_StartTransitions :
    ∀ k ∈ [0, 1, 2, 3, 4], (inStart (fallible .propagate) .high k).mode = .transmitting ∧
      (inStart (fallible .propagate) .high k).cmd = .start ∧ (inStart (fallible .propagate) .high k).pc = k := by decide
theorem witness_StartEmitsThePreamble :
    (idleWith [startAct]).presented startAct [] ∧ (idleWith [startAct]).writesSucceed 2 ∧
      (({ idleWith [startAct] with cfg := fallible .propagate, answers := [.ok, .ok, .err .low] } : State).writesSucceed 2) :=
  ⟨⟨rfl, rfl, rfl⟩, fun h => (by cases h), fun _ => ⟨[.err .low], rfl⟩⟩
theorem witness_SymOneTransitions :
    ∀ k ∈ [0, 1, 2, 3], (inSend Configuration.reference .low ['0', '1'] 1 (4 + k)).sending = true ∧
      (inSend Configuration.reference .low ['0', '1'] 1 (4 + k)).pc =
        (inSend Configuration.reference .low ['0', '1'] 1 (4 + k)).symBase + k := by decide
theorem witness_SymZeroTransitions :
    ∀ k ∈ [0, 1, 2, 3], (inSend Configuration.reference .low ['1', '0'] 1 (4 + k)).sending = true ∧
      (inSend Configuration.reference .low ['1', '0'] 1 (4 + k)).pc =
        (inSend Configuration.reference .low ['1', '0'] 1 (4 + k)).symBase + k := by decide
theorem witness_SeparatorDoesNothing :
    ('/').toNat ≠ 0x30 ∧ ('/').toNat ≠ 0x31 ∧ ('2').toNat ≠ 0x30 ∧ ('2').toNat ≠ 0x31 ∧
      (inSend Configuration.reference .low ['/'] 0 0).sending = true := by decide
theorem witness_SymbolOutsideSendIsRefused :
    State.reset.sending = false ∧ (inStart Configuration.reference .low 0).sending = false := by decide
theorem witness_FrameGapEndsSend :
    ∀ k ∈ [0, 1], (inSend Configuration.reference .high ['1', ' '] 2 (4 + k)).sending = true ∧
      (inSend Configuration.reference .high ['1', ' '] 2 (4 + k)).symIdx = ['1', ' '].length ∧
      (inSend Configuration.reference .high ['1', ' '] 2 (4 + k)).pc =
        (patternSteps Configuration.reference ['1', ' ']).length + k := by decide
theorem witness_SendEmitsThePattern :
    (idleWith [sendAct ['1', ' ', '0'], .pause 5]).presented (sendAct ['1', ' ', '0']) [.pause 5] ∧
      (idleWith [sendAct ['1', ' ', '0'], .pause 5]).writesSucceed (2 * (dataSymbols ['1', ' ', '0']).length) :=
  ⟨⟨rfl, rfl, rfl⟩, fun h => (by cases h)⟩
theorem witness_NominalTimesOfSend :
    Configuration.reference.tOneHi = 741 ∧ Configuration.reference.tOneLo = 247 ∧ Configuration.reference.tZeroHi = 247 ∧
      Configuration.reference.tZeroLo = 741 ∧ Configuration.reference.tGap = 7000 := by decide
theorem witness_SeparatorsDoNotChangeTheTrace :
    (idleWith [sendAct ['1', '0']]).presented (sendAct ['1', '0']) [] ∧
      dataSymbols ['1', '0'] = dataSymbols [' ', '1', 'x', '0'] ∧
      (nextOf (stepN 3 (idleWith [sendAct ['1', '0']]))).isSome = true :=
  ⟨⟨rfl, rfl, rfl⟩, by decide, by decide⟩
theorem witness_RepeatedSendRepeatsItsTrace :
    ({ idleWith [sendAct ['1'], sendAct ['1']] with
        cfg := fallible .suppress, answers := [.ok, .ok, .ok, .ok] } : State).presented (sendAct ['1']) [sendAct ['1']] ∧
      ({ idleWith [sendAct ['1'], sendAct ['1']] with
        cfg := fallible .suppress, answers := [.ok, .ok, .ok, .ok] } : State).writesSucceed
          (4 * (dataSymbols ['1']).length) :=
  ⟨⟨rfl, rfl, rfl⟩, fun _ => ⟨[], rfl⟩⟩
theorem witness_MessageEmitsItsFrames :
    (idleWith (message ['1'] 2)).system = .running ∧ (idleWith (message ['1'] 2)).mode = .idle ∧
      (idleWith (message ['1'] 2)).host = message ['1'] 2 ++ [] ∧
      (idleWith (message ['1'] 2)).writesSucceed (2 + 2 * (2 * (dataSymbols ['1']).length)) :=
  ⟨rfl, rfl, rfl, fun h => (by cases h)⟩

/-- The invariant in the middle of a symbol. -/
theorem inv_in_symbol : (inSend (fallible .propagate) .high ['0', ' ', '1'] 2 6).Inv := by
  unfold State.Inv; exact ⟨by decide, by decide, (by decide : 6 < 4 + max 1 4)⟩
/-- The invariant at the gap and at the return. -/
theorem inv_at_end :
    (inSend (fallible .suppress) .low ['1', ' '] 2 4).Inv ∧ (inSend (fallible .suppress) .low ['1', ' '] 2 5).Inv := by
  unfold State.Inv
  exact ⟨⟨by decide, by decide, (by decide : 4 ≤ 4 + 1)⟩, by decide, by decide, (by decide : 5 ≤ 4 + 1)⟩
theorem inv_start_return : (inStart (fallible .suppress) .low 4).Inv := by
  unfold State.Inv; exact ⟨rfl, rfl, by decide⟩

theorem witness_StepPerformsTheExpansion :
    (inSend (fallible .propagate) .high ['0', ' ', '1'] 2 6).Inv ∧
      (inSend (fallible .propagate) .high ['0', ' ', '1'] 2 6).mode = .transmitting ∧
      (inSend (fallible .propagate) .high ['0', ' ', '1'] 2 6).expand[6]? = some (.W .low) ∧
      (inStart (fallible .suppress) .low 4).Inv ∧
      (inStart (fallible .suppress) .low 4).pc = (inStart (fallible .suppress) .low 4).expand.length :=
  ⟨inv_in_symbol, rfl, rfl, inv_start_return, rfl⟩
theorem witness_EveryStepKeepsThePosition :
    (inSend (fallible .suppress) .low ['1', ' '] 2 5).Inv ∧
      (nextOf (step (inSend (fallible .suppress) .low ['1', ' '] 2 5))).isSome = true :=
  ⟨inv_at_end.2, by decide⟩
theorem witness_PcOnlyIncrements :
    (nextOf (step (idleWith [startAct]))).map (fun t => (t.mode, t.pc)) = some (.transmitting, 0) ∧
      (nextOf (step (inStart Configuration.reference .low 3))).map (fun t => (t.mode, t.pc)) = some (.transmitting, 4) ∧
      (State.powerOn Configuration.reference .low []).system ≠ .running ∧
      (nextOf (step (State.powerOn Configuration.reference .low []))).isSome = true := by
  decide
theorem witness_SymbolsAreConsumedInOrder :
    (inSend Configuration.reference .low [' ', ' ', '1'] 0 0).Inv ∧
      (inSend Configuration.reference .low [' ', ' ', '1'] 0 0).sending = true ∧
      (nextOf (step (inSend Configuration.reference .low [' ', ' ', '1'] 0 0))).map (fun t => (t.mode, t.symIdx)) =
        some (.transmitting, 2) :=
  ⟨by unfold State.Inv; exact ⟨by decide, by decide, (by decide : 0 < 0 + max 1 0)⟩, by decide, by decide⟩
theorem witness_EveryReturnResetsTheSequencer :
    (nextOf (step (inStart Configuration.reference .low 4))).map (·.trace) = some ([] ++ [.R .ok]) := by decide
theorem witness_EveryCommandReturns :
    (inSend (fallible .propagate) .high ['0', ' ', '1'] 2 6).system = .running ∧
      (inSend (fallible .propagate) .high ['0', ' ', '1'] 2 6).Inv ∧
      (inStart (fallible .suppress) .low 4).Inv ∧ (inStart (fallible .suppress) .low 4).cfg.faultPolicy = .suppress :=
  ⟨rfl, inv_in_symbol, inv_start_return, rfl⟩
theorem witness_NoRunStops :
    (idleWith [startAct, .pause 7, sendAct ['1', ' ']]).system = .running ∧
      (idleWith [startAct, .pause 7, sendAct ['1', ' ']]).Inv ∧
      (idleWith [startAct, .pause 7, sendAct ['1', ' ']]).host.all HostAct.proper = true :=
  ⟨rfl, by unfold State.Inv; exact ⟨rfl, rfl, rfl⟩, by decide⟩
theorem witness_ExecKeepsConfigurationAndHistory :
    (nextOf (exec .start State.reset)).isSome = true ∧
      (nextOf (exec (.send []) (inSend Configuration.reference .low [] 0 0))).isSome = true := by decide
theorem witness_ConfigurationIsFixed : (nextOf (stepN 2 (idleWith [startAct]))).isSome = true := by decide
theorem witness_SymbolFrame :
    (nextOf (exec .symOne (inSend Configuration.reference .low ['1'] 0 3))).map (·.mode) = some .transmitting ∧
      (nextOf (exec .symZero (inSend Configuration.reference .low ['0'] 0 0))).map (·.mode) = some .transmitting ∧
      (nextOf (exec (.symSep ' ') (inSend Configuration.reference .low [' '] 0 0))).isSome = true := by decide
theorem witness_CommandFrame :
    (nextOf (exec .start State.reset)).isSome = true ∧
      (nextOf (exec (.send ['1']) (inSend Configuration.reference .low ['1'] 0 1))).map (·.mode) = some .transmitting := by
  decide
theorem witness_OnlyPinWritesChangeThePin :
    (nextOf (step (inStart Configuration.reference .low 0))).map (fun t => (t.trace, t.pin)) =
      some ([] ++ [.W .high .ok], .high) ∧
    (nextOf (step (idleWith [startAct]))).map (fun t => t.trace) = some ([] ++ []) := by decide
theorem witness_PinIsAtTheLastWrittenLevel :
    (∀ l, lastWrite (inStart Configuration.reference .low 0).trace = some (l, .ok) →
      (inStart Configuration.reference .low 0).pin = l) ∧
    (nextOf (step (inStart Configuration.reference .low 0))).map (fun t => lastWrite t.trace) = some (some (.high, .ok)) :=
  ⟨fun l h => (by cases h), by decide⟩
theorem witness_InfalliblePinNeverFails :
    (inStart Configuration.reference .low 2).cfg.pinFallible = false ∧
      (nextOf (step (inStart Configuration.reference .low 2))).map (·.trace) = some ([] ++ [.W .low .ok]) := by decide
theorem witness_PropagateEndsTheCommand :
    (inSend (fallible .propagate) .high ['0', ' ', '1'] 2 6).Inv ∧
      ({ inSend (fallible .propagate) .high ['0', ' ', '1'] 2 6 with answers := [.err .high] } : State).pinAnswer = .err .high ∧
      ({ inSend (fallible .propagate) .high ['0', ' ', '1'] 2 6 with answers := [.ok] } : State).pinAnswer = .ok ∧
      (inSend (fallible .propagate) .high ['0', ' ', '1'] 2 6).expand[6]? = some (.W .low) :=
  ⟨inv_in_symbol, rfl, rfl, rfl⟩
/-- Program 3 of 95_test_vectors.md: the third write, step 4, fails. -/
theorem witness_PropagatedFaultIsPrecise :
    CommandSteps (fallible .propagate) (sendAct ['0', ' ', '1']) (sendSteps (fallible .propagate) ['0', ' ', '1']) ∧
      ({ State.construct (fallible .propagate) .low with
        host := [sendAct ['0', ' ', '1']], answers := [.ok, .ok, .err .low] } : State).presented (sendAct ['0', ' ', '1']) [] ∧
      (sendSteps (fallible .propagate) ['0', ' ', '1'])[4]? = some (.W .high) ∧
      [PinAnswer.ok, .ok, .err .low] =
        List.replicate (((sendSteps (fallible .propagate) ['0', ' ', '1']).take 4).countP Step.isWrite) .ok ++
          .err .low :: [] :=
  ⟨.send _, ⟨rfl, rfl, rfl⟩, rfl, by decide⟩
/-- The second write of START, step 2, fails. -/
theorem witness_PropagatedFaultIsPrecise_start :
    CommandSteps (fallible .propagate) startAct (startSteps (fallible .propagate)) ∧
      ({ State.construct (fallible .propagate) .low with
        host := [startAct], answers := [.ok, .err .high] } : State).presented startAct [] ∧
      (startSteps (fallible .propagate))[2]? = some (.W .low) ∧
      [PinAnswer.ok, .err .high] =
        List.replicate (((startSteps (fallible .propagate)).take 2).countP Step.isWrite) .ok ++ .err .high :: [] :=
  ⟨.start, ⟨rfl, rfl, rfl⟩, rfl, by decide⟩
theorem witness_SuppressedFaultsKeepTheTrace_send :
    CommandSteps (fallible .suppress) (sendAct ['1', ' ']) (sendSteps (fallible .suppress) ['1', ' ']) ∧
      ({ State.construct (fallible .suppress) .low with
        host := [sendAct ['1', ' ']], answers := [.err .low, .err .high] } : State).presented (sendAct ['1', ' ']) [] ∧
      (fallible .suppress).faultPolicy = .suppress :=
  ⟨.send _, ⟨rfl, rfl, rfl⟩, rfl⟩
theorem witness_SuppressedFaultsKeepTheTrace :
    CommandSteps (fallible .suppress) startAct (startSteps (fallible .suppress)) ∧
      ({ State.construct (fallible .suppress) .low with host := [startAct] } : State).presented startAct [] ∧
      (fallible .suppress).faultPolicy = .suppress :=
  ⟨.start, ⟨rfl, rfl, rfl⟩, rfl⟩
theorem witness_StatusIsTheFaultUnderPropagate :
    (nextOf (step { inStart (fallible .propagate) .low 0 with answers := [.err .low] })).map (·.trace) =
        some ([] ++ [.W .high .err, .R .err]) ∧
      (nextOf (step { inStart (fallible .suppress) .low 0 with answers := [.err .low] })).map (·.trace) =
        some ([] ++ [.W .high .err]) := by decide
theorem witness_OneFaultPerStep :
    (nextOf (step { inStart (fallible .propagate) .low 0 with answers := [.err .low, .err .low] })).map (·.trace) =
        some ([] ++ [.W .high .err, .R .err]) ∧
      (nextOf (step { inStart (fallible .suppress) .low 0 with answers := [.err .low, .err .low] })).map (·.trace) =
        some ([] ++ [.W .high .err]) := by decide
theorem witness_TraceHoldsThePosition :
    ({ inStart Configuration.reference .high 1 with trace := [.D 7000, .R .ok, .W .high .ok] } : State).Inv ∧
      stepsSinceReturn 0 [.D 7000, .R .ok, .W .high .ok] = 1 ∧
      (nextOf (step { inStart Configuration.reference .high 1 with trace := [.D 7000, .R .ok, .W .high .ok] })).isSome = true :=
  ⟨by unfold State.Inv; exact ⟨rfl, rfl, by decide⟩, rfl, by decide⟩
theorem witness_FaultInformationIsInTheTrace :
    ({ inStart (fallible .suppress) .high 2 with
        trace := [.W .high .ok, .D 1500], answers := [.err .high] } : State).Inv ∧
      stepsSinceReturn 0 [.W .high .ok, .D 1500] = 2 ∧
      (inStart (fallible .suppress) .high 2).expand[2]? = some (.W .low) ∧
      (nextOf (step { inStart (fallible .suppress) .high 2 with
        trace := [.W .high .ok, .D 1500], answers := [.err .high] })).isSome = true :=
  ⟨by unfold State.Inv; exact ⟨rfl, rfl, by decide⟩, rfl, rfl, by decide⟩
theorem witness_PinLevelChangesNoEvent : (nextOf (stepN 3 (idleWith [startAct]))).isSome = true := by decide
theorem witness_RunningCommandIgnoresTheHost :
    (inSend Configuration.reference .low ['1'] 0 1).system = .running ∧
      (nextOf (step (inSend Configuration.reference .low ['1'] 0 1))).isSome = true := by decide
theorem witness_WaitsKeepTheirBounds :
    (∀ x ∈ [Span.wait .low 741 750], x.withinBounds { Configuration.reference with maxSlack := some 20 }) ∧
      (nextOf (step { inStart { Configuration.reference with maxSlack := some 20 } .high 1 with
        wave := [.wait .low 741 750] })).isSome = true := by
  refine ⟨?_, by decide⟩
  intro x hx
  obtain rfl : x = .wait .low 741 750 := by simpa using hx
  exact ⟨by decide, fun m hm => by cases hm; decide⟩
theorem witness_EveryBoundedLengthCanBeDrawn :
    (741#32).toNat ≤ 761 ∧ ∀ m, (some 20 : Option Nat) = some m → 761 ≤ (741#32).toNat + m :=
  ⟨by decide, fun m hm => by cases hm; decide⟩

end Sys2Proof.Tests
end

section
/-! PROOF. The state of the block (10_state.md): the sequencer position, the pin, the configuration and the status, over every step. -/

namespace Sys2Proof.Machine

/-! ## The invariant of the sequencer position, case by case -/

/-- The sequencer as a return leaves it (40_commands.md R64): idle, with no command, position, pattern or consumed symbol. -/
def State.AtRest (s : State) : Prop :=
  s.mode = .idle ∧ s.cmd = .none ∧ s.pc = 0 ∧ s.pattern = [] ∧ s.symIdx = 0

theorem State.afterReturn_atRest (s : State) : s.afterReturn.AtRest := ⟨rfl, rfl, rfl, rfl, rfl⟩

theorem inv_idle_iff {s : State} (hm : s.mode = .idle) : s.Inv ↔ s.AtRest := by
  unfold State.Inv State.AtRest
  cases hc : s.cmd <;> simp [hm]

theorem State.AtRest.inv {s : State} (h : s.AtRest) : s.Inv := (inv_idle_iff h.1).2 h

theorem inv_start_iff {s : State} (hm : s.mode = .transmitting) (hc : s.cmd = .start) :
    s.Inv ↔ s.pattern = [] ∧ s.symIdx = 0 ∧ s.pc ≤ 4 := by
  simp [State.Inv, hm, hc]

/-- In SEND, before the symbol c: the position is within its steps, or just before it when it has none. -/
theorem inv_send_iff_of_symbol {s : State} {c : Char} (hm : s.mode = .transmitting) (hc : s.cmd = .send)
    (hr : s.pattern[s.symIdx]? = some c) :
    s.Inv ↔ s.symBase ≤ s.pc ∧ s.pc < s.symBase + max 1 (symWidth c) := by
  have hlt : s.symIdx < s.pattern.length := (List.getElem?_eq_some_iff.1 hr).1
  simp [State.Inv, hm, hc, hr, hlt.le]

/-- In SEND, after the last symbol: the position is at the gap or at the return. -/
theorem inv_send_iff_of_end {s : State} (hm : s.mode = .transmitting) (hc : s.cmd = .send)
    (he : s.symIdx = s.pattern.length) :
    s.Inv ↔ (patternSteps s.cfg s.pattern).length ≤ s.pc ∧ s.pc ≤ (patternSteps s.cfg s.pattern).length + 1 := by
  simp [State.Inv, hm, hc, he, State.symBase]

theorem symIdx_le_of_inv {s : State} (hm : s.mode = .transmitting) (hc : s.cmd = .send) (h : s.Inv) :
    s.symIdx ≤ s.pattern.length := by
  simp only [State.Inv, hm, hc] at h
  exact h.1

/-- The position where the symbol at the symbol index begins is sound, and so is the gap's. -/
theorem inv_of_pc_eq_symBase {s : State} (hm : s.mode = .transmitting) (hc : s.cmd = .send)
    (hle : s.symIdx ≤ s.pattern.length) (hp : s.pc = s.symBase) : s.Inv := by
  cases hr : s.pattern[s.symIdx]? with
  | some c =>
    rw [inv_send_iff_of_symbol hm hc hr]
    omega
  | none => simp [State.Inv, hm, hc, hr, hle, hp]

/-- Consuming a symbol moves the beginning of the current symbol by the width of the consumed one. -/
theorem symBase_nextSymbol {s : State} {c : Char} (hr : s.pattern[s.symIdx]? = some c) :
    s.nextSymbol.symBase = s.symBase + symWidth c := by
  simp [State.symBase, List.take_add_one, hr, length_symSteps]

theorem symBase_congr {s t : State} (hcfg : t.cfg = s.cfg) (hp : t.pattern = s.pattern) (hi : t.symIdx = s.symIdx) :
    t.symBase = s.symBase := by
  simp [State.symBase, hcfg, hp, hi]

theorem symWidth_of_sep {c : Char} (h : symClass c = .sep) : symWidth c = 0 := by simp [symWidth, h]

/-! ## The next step of a running command -/

theorem step_start (s : State) (hrun : s.system = .running) (hm : s.mode = .transmitting) (hc : s.cmd = .start) :
    step s = s.stepOrReturn 0 (startSteps s.cfg) := by
  simp [step, transition, exec, execStart, hrun, hm, hc]

theorem step_send (s : State) (hrun : s.system = .running) (hm : s.mode = .transmitting) (hc : s.cmd = .send) :
    step s = sendLoop (s.pattern.length - s.symIdx) s := by
  simp [step, transition, exec, execSend, hrun, hm, hc]

/-- A separator is passed over. -/
theorem sendLoop_succ_of_sep {s : State} {c : Char} (n : Nat) (hs : s.sending = true)
    (hr : s.pattern[s.symIdx]? = some c) (hc : symClass c = .sep) : sendLoop (n + 1) s = sendLoop n s.nextSymbol := by
  simp [sendLoop, Memory.read, hr, hc, execSymSep, hs]

/-- A data symbol takes the step. -/
theorem sendLoop_succ_of_data {s : State} {c : Char} (n : Nat) (hr : s.pattern[s.symIdx]? = some c)
    (hc : symClass c ≠ .sep) : sendLoop (n + 1) s = s.symbolStep (symClass c) := by
  cases hk : symClass c with
  | one => simp [sendLoop, Memory.read, hr, hk, execSymOne]
  | zero => simp [sendLoop, Memory.read, hr, hk, execSymZero]
  | sep => exact absurd hk hc

/-! ## Every step keeps the position -/

/-- START's steps keep the position. -/
theorem startStep_keeps_inv {s t : State} (hm : s.mode = .transmitting) (hc : s.cmd = .start) (hi : s.Inv)
    (h : s.stepOrReturn 0 (startSteps s.cfg) = .next t) : t.Inv := by
  obtain ⟨hpat, hidx, -⟩ := (inv_start_iff hm hc).1 hi
  obtain ⟨-, rfl⟩ | ⟨st, -, hst, rfl⟩ := stepOrReturn_cases _ _ _ _ h
  · exact s.afterReturn_atRest.inv
  · obtain ⟨h1, h2, h3, h4, h5⟩ | ⟨-, hrest⟩ := afterStep_position s st
    · have hlt : s.pc - 0 < (startSteps s.cfg).length := (List.getElem?_eq_some_iff.1 hst).1
      have hlen : (startSteps s.cfg).length = 4 := rfl
      exact (inv_start_iff (h1.trans hm) (h2.trans hc)).2 ⟨h4.trans hpat, h5.trans hidx, by omega⟩
    · exact State.AtRest.inv hrest

/-- The gap and the return keep the position. -/
theorem sendTail_keeps_inv {s t : State} (hm : s.mode = .transmitting) (hc : s.cmd = .send)
    (he : s.symIdx = s.pattern.length) (h : sendTail s = .next t) : t.Inv := by
  obtain ⟨-, rfl⟩ | ⟨st, hb, hst, rfl⟩ := stepOrReturn_cases _ _ _ _ h
  · exact s.afterReturn_atRest.inv
  · obtain ⟨h1, h2, h3, h4, h5⟩ | ⟨-, hrest⟩ := afterStep_position s st
    · have hlt : s.pc - (patternSteps s.cfg s.pattern).length < (gapSteps s.cfg).length :=
        (List.getElem?_eq_some_iff.1 hst).1
      have hlen : (gapSteps s.cfg).length = 1 := rfl
      rw [inv_send_iff_of_end (h1.trans hm) (h2.trans hc) (by rw [h4, h5, he]), (afterStep_frame s st).1, h3, h4]
      omega
    · exact State.AtRest.inv hrest

/-- A data symbol's steps keep the position: inside the symbol, at the beginning of the next, or at rest after a fault. -/
theorem symbolStep_keeps_inv {s t : State} {c : Char} (hm : s.mode = .transmitting) (hc : s.cmd = .send)
    (hr : s.pattern[s.symIdx]? = some c) (h : s.symbolStep (symClass c) = .next t) : t.Inv := by
  obtain ⟨-, st, hb, hst, rfl⟩ := symbolStep_cases _ _ _ h
  have hlt := (List.getElem?_eq_some_iff.1 hst).1
  have hcfg := (afterStep_frame s st).1
  rw [length_symSteps] at hlt ⊢
  obtain ⟨h1, h2, h3, h4, h5⟩ | ⟨⟨l, x, hw, -⟩, hrest⟩ := afterStep_position s st
  · have hbase := symBase_congr hcfg h4 h5
    have hr' : (s.afterStep st).pattern[(s.afterStep st).symIdx]? = some c := by rw [h4, h5, hr]
    split
    · next hend =>
      have hle : (s.afterStep st).symIdx < (s.afterStep st).pattern.length := (List.getElem?_eq_some_iff.1 hr').1
      refine inv_of_pc_eq_symBase (h1.trans hm) (h2.trans hc) hle ?_
      rw [symBase_nextSymbol hr', hbase, nextSymbol_pc, h3, hend]
    · rw [inv_send_iff_of_symbol (h1.trans hm) (h2.trans hc) hr', hbase, h3]
      omega
  · have hinner : s.pc + 1 ≠ s.symBase + symWidth c := by
      intro hend
      obtain ⟨n, hn⟩ := symSteps_last _ _ _ _ hst (by rw [length_symSteps]; omega)
      simp [hn] at hw
    rw [if_neg hinner]
    exact State.AtRest.inv hrest

/-- Passing over a separator keeps the position. -/
theorem nextSymbol_keeps_inv {s : State} {c : Char} (hm : s.mode = .transmitting) (hc : s.cmd = .send)
    (hr : s.pattern[s.symIdx]? = some c) (hsep : symClass c = .sep) (hi : s.Inv) : s.nextSymbol.Inv := by
  obtain ⟨hge, hlt⟩ := (inv_send_iff_of_symbol hm hc hr).1 hi
  rw [symWidth_of_sep hsep] at hlt
  refine inv_of_pc_eq_symBase hm hc (List.getElem?_eq_some_iff.1 hr).1 ?_
  rw [symBase_nextSymbol hr, symWidth_of_sep hsep, nextSymbol_pc]
  omega

/-- SEND's steps keep the position: induction on the number of symbols left. -/
theorem sendLoop_keeps_inv (n : Nat) {s t : State} (hm : s.mode = .transmitting) (hc : s.cmd = .send)
    (hn : s.symIdx + n = s.pattern.length) (hi : s.Inv) (h : sendLoop n s = .next t) : t.Inv := by
  induction n generalizing s with
  | zero => exact sendTail_keeps_inv hm hc hn h
  | succ n ih =>
    have hr : s.pattern[s.symIdx]? = some s.pattern[s.symIdx] := List.getElem?_eq_getElem (by omega)
    by_cases hsep : symClass s.pattern[s.symIdx] = .sep
    · rw [sendLoop_succ_of_sep n (by simp [State.sending, hm, hc]) hr hsep] at h
      exact ih (s := s.nextSymbol) hm hc (by simp only [nextSymbol_symIdx, nextSymbol_pattern]; omega)
        (nextSymbol_keeps_inv hm hc hr hsep hi) h
    · rw [sendLoop_succ_of_data n hr hsep] at h
      exact symbolStep_keeps_inv hm hc hr h

/-- A running command's step keeps the position. -/
theorem runningStep_keeps_inv {s t : State} (hrun : s.system = .running) (hm : s.mode = .transmitting) (hi : s.Inv)
    (h : step s = .next t) : t.Inv := by
  cases hc : s.cmd with
  | none => simp [State.Inv, hm, hc] at hi
  | start => exact startStep_keeps_inv hm hc hi (step_start s hrun hm hc ▸ h)
  | send =>
    have hle := symIdx_le_of_inv hm hc hi
    exact sendLoop_keeps_inv _ hm hc (by omega) hi (step_send s hrun hm hc ▸ h)

/-- An accepted command begins at a sound position. -/
theorem accept_inv (s : State) {k : Cmd} {p : List Char} (hk : k ≠ .none) (hp : k = .start → p = []) :
    (s.accept k p).Inv := by
  cases k with
  | none => exact absurd rfl hk
  | start => exact (inv_start_iff rfl rfl).2 ⟨hp rfl, rfl, Nat.zero_le 4⟩
  | send => exact inv_of_pc_eq_symBase rfl rfl (Nat.zero_le _) rfl

/-- Settles O35: an idle block's step is an acceptance or leaves the sequencer, a running command's step keeps the position, and
bring-up does not touch it. -/
theorem everyStepKeepsThePosition : Obligations.EveryStepKeepsThePosition := by
  intro s t hi h
  obtain ⟨hrun, hmove⟩ | ⟨b, acts, -, rfl⟩ := step_moves s t h
  · cases hmove with
    | stay => exact hi
    | accept c rest k p hm hh hk hp => exact accept_inv s hk hp
    | pause => exact hi
    | finish => exact s.afterReturn_atRest.inv
    | work st k hm => exact runningStep_keeps_inv hrun hm hi h
  · exact hi

/-! ## What a step records, and where it leaves the pin -/

/-- A failed write is recorded exactly where the step is that write and the port answers ERR. -/
theorem failedWrite_mem_stepEvents (s : State) (st : Step) (l : Level) :
    .W l .err ∈ stepEvents s st ↔ st = .W l ∧ ∃ x, s.pinAnswer = .err x := by
  cases st with
  | W l' =>
    simp only [stepEvents]
    cases s.pinAnswer with
    | ok => simp
    | err x => cases s.cfg.faultPolicy <;> simp [eq_comm]
  | D n => simp [stepEvents]

/-- A step of a step list returns exactly when its write fails under PROPAGATE, and then with ERR. -/
theorem return_mem_stepEvents (s : State) (st : Step) (r : Result) :
    .R r ∈ stepEvents s st ↔ r = .err ∧ s.cfg.faultPolicy = .propagate ∧ ∃ l, .W l .err ∈ stepEvents s st := by
  simp only [failedWrite_mem_stepEvents]
  cases st with
  | W l =>
    simp only [stepEvents]
    cases s.pinAnswer with
    | ok => simp
    | err x => cases s.cfg.faultPolicy <;> simp
  | D n => simp [stepEvents]

/-- The last pin write of a longer trace: the new events' where they have one. -/
theorem lastWrite_append (es fs : List Event) : lastWrite (es ++ fs) = (lastWrite fs).or (lastWrite es) := by
  induction es with
  | nil => simp [lastWrite]
  | cons e es ih =>
    simp only [List.cons_append, lastWrite, ih]
    cases lastWrite fs <;> simp

/-- A pin write records its level with the answer's result, and no later write. -/
theorem lastWrite_stepEvents (s : State) (l : Level) :
    lastWrite (stepEvents s (.W l)) = some (l, s.pinAnswer.result) := by
  simp only [stepEvents]
  cases s.pinAnswer with
  | ok => rfl
  | err x => cases s.cfg.faultPolicy <;> rfl

theorem write_mem_stepEvents (s : State) (l : Level) : .W l s.pinAnswer.result ∈ stepEvents s (.W l) := by
  simp only [stepEvents]
  cases s.pinAnswer with
  | ok => exact List.mem_cons_self
  | err x => cases s.cfg.faultPolicy <;> exact List.mem_cons_self

theorem stepPin_of_ok (s : State) (l : Level) (h : s.pinAnswer.result = .ok) : stepPin s (.W l) = l := by
  simp only [stepPin]
  cases ha : s.pinAnswer with
  | ok => rfl
  | err x => simp [ha, PinAnswer.result] at h

/-- A step that returns leaves the block idle. -/
theorem afterStep_idle_of_return (s : State) (st : Step) (r : Result) (h : .R r ∈ stepEvents s st) :
    (s.afterStep st).mode = .idle := by
  obtain ⟨-, hpol, l, hl⟩ := (return_mem_stepEvents s st r).1 h
  obtain ⟨rfl, x, hx⟩ := (failedWrite_mem_stepEvents s st l).1 hl
  simp [State.afterStep, State.afterWrite, hx, hpol]

/-- A step that ends the command leaves the sequencer at rest, the symbol index included. -/
theorem work_position (s : State) (st : Step) (k : Nat) (hm : s.mode = .transmitting) (hk : IndexAfter s st k) :
    ((s.afterStep st).mode = .transmitting ∧ (s.afterStep st).pc = s.pc + 1) ∨
      ({ s.afterStep st with symIdx := k } : State).AtRest := by
  obtain ⟨h1, -, h3, -, -⟩ | ⟨-, h1, h2, h3, h4, -⟩ := afterStep_position s st
  · exact .inl ⟨h1.trans hm, h3⟩
  · exact .inr ⟨h1, h2, h3, h4, hk.1 h1⟩

/-- The events a step may record, from s to t, with the pin it leaves and, where it returns, the sequencer. -/
inductive Records (s t : State) : List Event → Prop where
  | nothing : t.pin = s.pin → Records s t []
  | finish : s.mode = .transmitting → t.pin = s.pin → t.AtRest → Records s t [.R .ok]
  | step (st : Step) : s.mode = .transmitting → t.pin = stepPin s st → (∀ r, .R r ∈ stepEvents s st → t.AtRest) →
      Records s t (stepEvents s st)

/-- Every step adds such events to the trace. -/
theorem step_records {s t : State} (h : step s = .next t) : ∃ es, t.trace = s.trace ++ es ∧ Records s t es := by
  obtain ⟨-, hmove⟩ | ⟨b, acts, -, rfl⟩ := step_moves s t h
  · cases hmove with
    | stay => exact ⟨[], by simp, .nothing rfl⟩
    | accept => exact ⟨[], by simp, .nothing rfl⟩
    | pause => exact ⟨[], by simp, .nothing rfl⟩
    | finish hm => exact ⟨_, rfl, .finish hm rfl s.afterReturn_atRest⟩
    | work st k hm _ hk =>
      obtain ⟨htrace, hpin⟩ := afterStep_events s st
      refine ⟨_, htrace, .step st hm hpin fun r hr => ?_⟩
      obtain ⟨hgo, -⟩ | hrest := work_position s st k hm hk
      · simp [afterStep_idle_of_return s st r hr] at hgo
      · exact hrest
  · exact ⟨[], by simp, .nothing rfl⟩

/-- The events between the two traces are those the step records. -/
theorem records_of_step {s t : State} {es : List Event} (h : step s = .next t) (htrace : t.trace = s.trace ++ es) :
    Records s t es := by
  obtain ⟨fs, hfs, hrec⟩ := step_records h
  obtain rfl : fs = es := List.append_cancel_left (hfs.symm.trans htrace)
  exact hrec

/-! ## The pin -/

/-- Settles O47: a step that records no write leaves the pin, and one that records a successful write leaves it at that write's
level. -/
theorem pinIsAtTheLastWrittenLevel : Obligations.PinIsAtTheLastWrittenLevel := by
  intro s t hs h l hl
  obtain ⟨es, htrace, hrec⟩ := step_records h
  rw [htrace, lastWrite_append] at hl
  cases hrec with
  | nothing hpin => exact hpin.trans (hs l hl)
  | finish _ hpin _ => exact hpin.trans (hs l hl)
  | step st _ hpin _ =>
    cases st with
    | W l' =>
      rw [lastWrite_stepEvents] at hl
      obtain ⟨rfl, hok⟩ : l' = l ∧ s.pinAnswer.result = .ok := by simpa using hl
      exact hpin.trans (stepPin_of_ok s l' hok)
    | D n => exact hpin.trans (hs l hl)

/-- Settles O46: of the events a step may record, only a pin write goes with another pin level. -/
theorem onlyPinWritesChangeThePin : Obligations.OnlyPinWritesChangeThePin := by
  intro s t es h htrace
  cases records_of_step h htrace with
  | nothing hpin => exact ⟨fun hne => absurd hpin hne, fun _ => hpin⟩
  | finish _ hpin _ => exact ⟨fun hne => absurd hpin hne, fun _ => hpin⟩
  | step st hm hpin _ =>
    refine ⟨fun hne => ?_, fun hidle => by simp [hm] at hidle⟩
    cases st with
    | W l => exact ⟨l, _, write_mem_stepEvents s l⟩
    | D n => exact absurd hpin hne

/-! ## Position, return and status -/

/-- Settles O37: bring-up and an idle block's acts leave `pc` or reset it at acceptance; a running command's step advances it by one
or ends at rest. -/
theorem pcOnlyIncrements : Obligations.PcOnlyIncrements := by
  intro s t h
  obtain ⟨hrun, hmove⟩ | ⟨b, acts, hboot, rfl⟩ := step_moves s t h
  · refine ⟨fun hidle => ?_, fun _ htx => ?_, fun hno => absurd hrun hno⟩
    · cases hmove with
      | stay => exact .inl rfl
      | accept => exact .inr ⟨rfl, rfl⟩
      | pause => exact .inl rfl
      | finish hm => simp [hm] at hidle
      | work _ _ hm => simp [hm] at hidle
    · cases hmove with
      | stay hm => simp [hm] at htx
      | accept _ _ _ _ hm => simp [hm] at htx
      | pause _ _ hm => simp [hm] at htx
      | finish => exact .inr ⟨rfl, rfl⟩
      | work st k hm _ hk =>
        obtain ⟨-, hpc⟩ | ⟨hmode, -, hpc, -, -⟩ := work_position s st k hm hk
        · exact .inl hpc
        · exact .inr ⟨hmode, hpc⟩
  · exact ⟨fun _ => .inl rfl, fun hrun => by simp [hboot] at hrun, fun _ => rfl⟩

/-- Settles O39: both ways of recording a return, the end of the step list and the propagated fault, leave the sequencer at rest. -/
theorem everyReturnResetsTheSequencer : Obligations.EveryReturnResetsTheSequencer := by
  intro s t es r h htrace hr
  cases records_of_step h htrace with
  | nothing => simp at hr
  | finish _ _ hrest => exact hrest
  | step st _ _ hret => exact hret r hr

/-- Settles O52: R(ERR) is recorded only by a step whose write failed, under PROPAGATE. -/
theorem statusIsTheFaultUnderPropagate : Obligations.StatusIsTheFaultUnderPropagate := by
  intro s t es h htrace
  cases records_of_step h htrace with
  | nothing => simp
  | finish => simp
  | step st =>
    rw [return_mem_stepEvents]
    exact ⟨fun hsup => by simp [hsup], fun hprop => by simp [hprop]⟩

/-! ## Frames -/

/-- Settles O42: acceptance, separator, return and step each keep the configuration and the system and only extend the history. -/
theorem execKeepsConfigurationAndHistory : Obligations.ExecKeepsConfigurationAndHistory := by
  intro i s t h
  obtain rfl | ⟨hm, c, p, rfl⟩ | ⟨-, rfl⟩ | ⟨-, rfl | ⟨st, k, rfl, -⟩⟩ := exec_cases i s t h
  · simp
  · simp [hm]
  · simp
  · simp [State.afterReturn]
  · obtain ⟨hcfg, hsys, hhost⟩ := afterStep_frame s st
    obtain ⟨hwave, hanswers, hslacks, hdraws⟩ := afterStep_history s st
    exact ⟨hcfg, hsys, fun _ => hhost, ⟨_, (afterStep_events s st).1⟩, hwave, hanswers, hslacks, hdraws⟩

theorem step_keeps_cfg {s t : State} (h : step s = .next t) : t.cfg = s.cfg := by
  obtain ⟨-, hmove⟩ | ⟨b, acts, -, rfl⟩ := step_moves s t h
  · cases hmove with
    | stay => rfl
    | accept => rfl
    | pause => rfl
    | finish => rfl
    | work st => exact (afterStep_frame s st).1
  · rfl

/-- A run of `n + 1` steps is a step and then a run of `n`. -/
theorem stepN_succ_cases {n : Nat} {s t : State} (h : stepN (n + 1) s = .next t) :
    ∃ u, step s = .next u ∧ stepN n u = .next t := by
  simp only [stepN] at h
  split at h
  · next u hu => exact ⟨u, hu, h⟩
  · cases h
  · cases h

/-- Settles O43, by induction on the number of steps. -/
theorem configurationIsFixed : Obligations.ConfigurationIsFixed := by
  intro s t n h
  induction n generalizing s with
  | zero =>
    obtain rfl : s = t := by simpa [stepN] using h
    rfl
  | succ n ih =>
    obtain ⟨u, hstep, hrest⟩ := stepN_succ_cases h
    exact (ih u hrest).trans (step_keeps_cfg hstep)

end Sys2Proof.Machine
end

section
/-! PROOF. The pattern store (20_memory.md): the order in which SEND consumes its symbols, the frame of the commands, and a running
command's independence of the host port. -/

namespace Sys2Proof.Machine

/-! ## The order of the symbols -/

/-- The separators are the symbols other than the data symbols (30_encoding.md R49). -/
theorem isDataSymbol_eq_false_of_sep {c : Char} (h : symClass c = .sep) : isDataSymbol c = false := by
  unfold symClass at h
  split at h
  · cases h
  · next h1 =>
    split at h
    · cases h
    · next h0 => simp [isDataSymbol, h1, h0]

/-- From s to t the symbol index moves up within the pattern, which stays, and passes over separators only, but for the last symbol
(20_memory.md R32). -/
def ConsumesInOrder (s t : State) : Prop :=
  s.symIdx ≤ t.symIdx ∧ t.symIdx ≤ s.pattern.length ∧ t.pattern = s.pattern ∧
    ∀ i c, s.symIdx ≤ i → i + 1 < t.symIdx → s.pattern.read i = some c → isDataSymbol c = false

/-- At most one symbol consumed: none is passed over before it. -/
theorem consumesInOrder_of_le_succ {s t : State} (hlo : s.symIdx ≤ t.symIdx) (hhi : t.symIdx ≤ s.symIdx + 1)
    (hlen : t.symIdx ≤ s.pattern.length) (hpat : t.pattern = s.pattern) : ConsumesInOrder s t :=
  ⟨hlo, hlen, hpat, fun _ _ _ _ _ => by omega⟩

/-- A separator consumed first. -/
theorem ConsumesInOrder.of_nextSymbol {s t : State} {c : Char} (hr : s.pattern[s.symIdx]? = some c)
    (hsep : symClass c = .sep) (h : ConsumesInOrder s.nextSymbol t) : ConsumesInOrder s t := by
  obtain ⟨hlo, hlen, hpat, hskip⟩ := h
  refine ⟨Nat.le_of_succ_le hlo, hlen, hpat, fun i d hi ht hd => ?_⟩
  obtain rfl | hlt := hi.eq_or_lt
  · obtain rfl : c = d := Option.some.inj (hr.symm.trans hd)
    exact isDataSymbol_eq_false_of_sep hsep
  · exact hskip i d hlt ht hd

/-- A step of a step list that does not end the command leaves the command, the pattern and the symbol index. -/
theorem afterStep_keeps_command {s : State} {st : Step} (h : (s.afterStep st).mode = .transmitting) :
    (s.afterStep st).cmd = s.cmd ∧ (s.afterStep st).pattern = s.pattern ∧ (s.afterStep st).symIdx = s.symIdx := by
  obtain ⟨-, hcmd, -, hpat, hidx⟩ | ⟨-, hidle, -⟩ := afterStep_position s st
  · exact ⟨hcmd, hpat, hidx⟩
  · simp [hidle] at h

/-- The gap consumes no symbol. -/
theorem sendTail_consumesInOrder {s t : State} (hidx : s.symIdx ≤ s.pattern.length) (h : sendTail s = .next t)
    (ht : t.mode = .transmitting) : ConsumesInOrder s t := by
  obtain ⟨-, rfl⟩ | ⟨st, -, -, rfl⟩ := stepOrReturn_cases _ _ _ _ h
  · cases ht
  · obtain ⟨-, hpat, hk⟩ := afterStep_keeps_command ht
    exact consumesInOrder_of_le_succ hk.ge (by omega) (by omega) hpat

/-- A data symbol's step consumes that symbol or none. -/
theorem symbolStep_consumesInOrder {s t : State} {k : SymClass} (hidx : s.symIdx < s.pattern.length)
    (h : s.symbolStep k = .next t) (ht : t.mode = .transmitting) : ConsumesInOrder s t := by
  obtain ⟨-, st, -, -, rfl⟩ := symbolStep_cases _ _ _ h
  by_cases hend : s.pc + 1 = s.symBase + (symSteps s.cfg k).length
  · rw [if_pos hend] at ht ⊢
    obtain ⟨-, hpat, hk⟩ := afterStep_keeps_command (s := s) (st := st) ht
    exact consumesInOrder_of_le_succ (by simp [hk]) (by simp [hk]) (by simpa [hk] using hidx) hpat
  · rw [if_neg hend] at ht ⊢
    obtain ⟨-, hpat, hk⟩ := afterStep_keeps_command ht
    exact consumesInOrder_of_le_succ hk.ge (by omega) (by omega) hpat

/-- SEND's step passes over the separators at the symbol index: induction on the number of symbols left. -/
theorem sendLoop_consumesInOrder (n : Nat) {s t : State} (hs : s.sending = true) (hn : s.symIdx + n = s.pattern.length)
    (h : sendLoop n s = .next t) (ht : t.mode = .transmitting) : ConsumesInOrder s t := by
  induction n generalizing s with
  | zero => exact sendTail_consumesInOrder hn.le h ht
  | succ n ih =>
    have hlt : s.symIdx < s.pattern.length := by omega
    have hr : s.pattern[s.symIdx]? = some s.pattern[s.symIdx] := List.getElem?_eq_getElem hlt
    by_cases hsep : symClass s.pattern[s.symIdx] = .sep
    · rw [sendLoop_succ_of_sep n hs hr hsep] at h
      have hn' : s.nextSymbol.symIdx + n = s.nextSymbol.pattern.length := by
        simp only [nextSymbol_symIdx, nextSymbol_pattern]; omega
      exact .of_nextSymbol hr hsep (ih (s := s.nextSymbol) hs hn' h)
    · rw [sendLoop_succ_of_data n hr hsep] at h
      exact symbolStep_consumesInOrder hlt h ht

theorem sending_iff (s : State) : s.sending = true ↔ s.mode = .transmitting ∧ s.cmd = .send := by
  simp [State.sending]

/-- Settles O38: a running SEND consumes in order, and bring-up does not touch the sequencer. -/
theorem symbolsAreConsumedInOrder : Obligations.SymbolsAreConsumedInOrder := by
  intro s t hi hs h ht
  obtain ⟨hm, hc⟩ := (sending_iff s).1 hs
  have hle := symIdx_le_of_inv hm hc hi
  have horder : ConsumesInOrder s t := by
    obtain ⟨hrun, -⟩ | ⟨b, acts, -, rfl⟩ := step_moves s t h
    · exact sendLoop_consumesInOrder _ hs (by omega) (step_send s hrun hm hc ▸ h) ht
    · exact consumesInOrder_of_le_succ le_rfl (Nat.le_succ _) hle rfl
  obtain ⟨hlo, hhi, hpat, hskip⟩ := horder
  exact ⟨hlo, hhi, hpat, fun a => by rw [hpat], hskip⟩

/-! ## The frame of the commands -/

/-- Settles O45: an idle block's meaning is the acceptance, and a running command's that does not return is a step. -/
theorem commandFrame : Obligations.CommandFrame := by
  intro i s t _ h
  obtain rfl | ⟨hm, k, p, rfl⟩ | ⟨hs, rfl⟩ | ⟨hm, rfl | ⟨st, k, rfl, -⟩⟩ := exec_cases i s t h
  · simp
  · simp [hm, State.accept]
  · simp
  · exact ⟨fun hidle => (by simp [hm] at hidle), fun _ ht => (by cases ht)⟩
  · refine ⟨fun hidle => (by simp [hm] at hidle), fun _ ht => ?_⟩
    obtain ⟨hcmd, hpat, -⟩ := afterStep_keeps_command (s := s) (st := st) ht
    obtain ⟨hcfg, hsys, hhost⟩ := afterStep_frame s st
    exact ⟨hcmd, fun a => congrArg (Memory.read · a) hpat, hhost, hcfg, hsys⟩

/-! ## A running command and the host port -/

/-- The state with another list of host acts to come (20_memory.md R31, R43). -/
def State.withHost (s : State) (h : List HostAct) : State := { s with host := h }

theorem afterPinAnswer_withHost (s : State) (h : List HostAct) :
    (s.withHost h).afterPinAnswer = s.afterPinAnswer.withHost h := by
  unfold State.afterPinAnswer State.withHost
  dsimp only
  split
  · split <;> rfl
  · rfl

theorem afterSlack_withHost (s : State) (h : List HostAct) : (s.withHost h).afterSlack = s.afterSlack.withHost h := by
  unfold State.afterSlack State.withHost
  dsimp only
  split <;> rfl

/-- A step of a step list does not see the host's list. -/
theorem afterStep_withHost (s : State) (h : List HostAct) (st : Step) :
    (s.withHost h).afterStep st = (s.afterStep st).withHost h := by
  cases st with
  | W l =>
    have ha : (s.withHost h).pinAnswer = s.pinAnswer := rfl
    have hc : (s.withHost h).cfg = s.cfg := rfl
    simp only [State.afterStep, State.afterWrite, ha, hc, afterPinAnswer_withHost]
    cases s.pinAnswer with
    | ok => rfl
    | err x => cases s.cfg.faultPolicy <;> rfl
  | D n =>
    simp only [State.afterStep, State.afterWait, afterSlack_withHost]
    rfl

theorem stepOrReturn_withHost {s t : State} {base : Nat} {steps : List Step} (h : List HostAct)
    (ht : s.stepOrReturn base steps = .next t) : (s.withHost h).stepOrReturn base steps = .next (t.withHost h) := by
  obtain ⟨hret, rfl⟩ | ⟨st, hb, hst, rfl⟩ := stepOrReturn_cases _ _ _ _ ht
  · exact if_pos hret
  · have hlt := (List.getElem?_eq_some_iff.1 hst).1
    have hgo : ¬ (s.withHost h).pc = base + steps.length := by
      change ¬ s.pc = _
      omega
    rw [State.stepOrReturn, if_neg hgo, stepFrom_eq (s.withHost h) base steps st hb hst, afterStep_withHost, outcomeOf]

/-- What a data symbol does inside a SEND, when it has a step at the position; `symbolStep_cases` is the converse. -/
theorem symbolStep_eq {s : State} {k : SymClass} {st : Step} (hs : s.sending = true) (hb : s.symBase ≤ s.pc)
    (hst : (symSteps s.cfg k)[s.pc - s.symBase]? = some st) :
    s.symbolStep k = .next (if s.pc + 1 = s.symBase + (symSteps s.cfg k).length then (s.afterStep st).nextSymbol
      else s.afterStep st) := by
  simp only [State.symbolStep, hs, stepFrom_eq s _ _ st hb hst, if_true]
  split <;> rfl

theorem symbolStep_withHost {s t : State} {k : SymClass} (h : List HostAct) (ht : s.symbolStep k = .next t) :
    (s.withHost h).symbolStep k = .next (t.withHost h) := by
  obtain ⟨hs, st, hb, hst, rfl⟩ := symbolStep_cases _ _ _ ht
  rw [symbolStep_eq (s := s.withHost h) hs hb hst, afterStep_withHost]
  rw [apply_ite (State.withHost · h)]
  rfl

/-- SEND's step does not see the host's list: induction on the number of symbols left. -/
theorem sendLoop_withHost (n : Nat) {s t : State} (h : List HostAct) (hs : s.sending = true)
    (ht : sendLoop n s = .next t) : sendLoop n (s.withHost h) = .next (t.withHost h) := by
  induction n generalizing s with
  | zero => exact stepOrReturn_withHost h ht
  | succ n ih =>
    cases hr : s.pattern[s.symIdx]? with
    | none => simp [sendLoop, Memory.read, hr] at ht
    | some c =>
      by_cases hsep : symClass c = .sep
      · rw [sendLoop_succ_of_sep n hs hr hsep] at ht
        rw [sendLoop_succ_of_sep (s := s.withHost h) n hs hr hsep]
        exact ih (s := s.nextSymbol) hs ht
      · rw [sendLoop_succ_of_data n hr hsep] at ht
        rw [sendLoop_succ_of_data (s := s.withHost h) n hr hsep]
        exact symbolStep_withHost h ht

/-- Settles O57: neither START's step list nor SEND's loop reads the host's list. -/
theorem runningCommandIgnoresTheHost : Obligations.RunningCommandIgnoresTheHost := by
  intro s t h hrun hm ht
  change step (s.withHost h) = .next (t.withHost h)
  cases hc : s.cmd with
  | none => simp [step, transition, hrun, hm, hc] at ht
  | start =>
    rw [step_start s hrun hm hc] at ht
    rw [step_start (s.withHost h) hrun hm hc]
    exact stepOrReturn_withHost h ht
  | send =>
    rw [step_send s hrun hm hc] at ht
    rw [step_send (s.withHost h) hrun hm hc]
    exact sendLoop_withHost _ h ((sending_iff s).2 ⟨hm, hc⟩) ht

end Sys2Proof.Machine
end

section
/-! PROOF. Encoding (30_encoding.md): the decoder on symbols, on commands, and against the opcode map. -/

namespace Sys2Proof

open Sys2Proof.Machine (toNat_lt_field symbolOf_containerOf)

/-! ## Symbols and their containers -/

/-- The instruction of a symbol by its code point (30_encoding.md R49). -/
theorem symInstr_eq (c : Char) :
    symInstr c = if c.toNat = 0x31 then .symOne else if c.toNat = 0x30 then .symZero else .symSep c := by
  unfold symInstr symClass
  split_ifs <;> rfl

/-- The separators are exactly the symbols other than the data symbols (30_encoding.md R49). -/
theorem symClass_eq_sep_iff (c : Char) : symClass c = .sep ↔ isDataSymbol c = false := by
  unfold symClass isDataSymbol
  split_ifs <;> simp [*]

theorem symInstr_of_sep {c : Char} (h : symClass c = .sep) : symInstr c = .symSep c := by simp [symInstr, h]

/-- The number in a symbol's container is its code point. -/
theorem toNat_containerOf (c : Char) : (containerOf c).toNat = c.toNat := by
  have h := toNat_lt_field c
  simp only [containerOf, BitVec.toNat_append, BitVec.toNat_ofNat, Nat.mod_eq_of_lt h]
  simp

theorem containerOf_eq_ofNat_iff (c : Char) {n : Nat} (hn : n < 2 ^ 32) :
    containerOf c = BitVec.ofNat 32 n ↔ c.toNat = n := by
  rw [← BitVec.toNat_inj, toNat_containerOf, BitVec.toNat_ofNat, Nat.mod_eq_of_lt hn]

/-- The container of a symbol is the only one that holds it (30_encoding.md R48). -/
theorem containerOf_of_symbolOf {w : Container} {c : Char} (h : symbolOf w = some c) : containerOf c = w := by
  unfold symbolOf at h
  split at h
  · next hw =>
    obtain ⟨hzero, hscalar⟩ := of_decide_eq_true hw
    have hvalid : (Container.cpField w).toNat.isValidChar := by
      simp only [Nat.isValidChar]
      omega
    have hfields : Container.zeroField w ++ Container.cpField w = w :=
      (BitVec.extractLsb'_append_extractLsb'_eq_extractLsb' rfl).trans BitVec.extractLsb'_eq_self
    obtain rfl : Char.ofNat (Container.cpField w).toNat = c := by simpa using h
    rw [hzero] at hfields
    rwa [containerOf, Char.toNat_ofNat, if_pos hvalid, BitVec.ofNat_toNat, BitVec.setWidth_eq]
  · cases h

/-! ## The decoder -/

/-- A container decodes to the instruction of the symbol it holds, if it holds one. -/
theorem decode_sym_eq_ok_iff (w : Container) (i : Instr) :
    decode (.sym w) = .ok i ↔ ∃ c, symbolOf w = some c ∧ symInstr c = i := by
  cases h : symbolOf w <;> simp [decode, h]

@[simp] theorem decode_sym_containerOf (c : Char) : decode (.sym (containerOf c)) = .ok (symInstr c) := by
  simp [decode]

@[simp] theorem decodeScalars_containerOf (p : List Char) : decodeScalars (p.map containerOf) = .ok p := by
  induction p with
  | nil => rfl
  | cons c p ih => simp [decodeScalars, ih]

/-- Tag 1 is SEND of the pattern exactly as given (30_encoding.md R46). -/
@[simp] theorem decode_send_containerOf (p : List Char) :
    decode (.cmd ⟨1, .scalars (p.map containerOf)⟩) = .ok (.send p) := by
  simp [decode, decodeOperand]

/-- The tag alone selects the command (30_encoding.md R46). -/
theorem mnemonic_of_decode_cmd {c : CmdWord} {i : Instr} (h : decode (.cmd c) = .ok i) :
    i.mnemonic = if c.tag = 0 then "START" else "SEND" := by
  simp only [decode] at h
  split at h
  · next htag =>
    obtain rfl : .start = i := by simpa using h
    rw [if_pos htag, Instr.mnemonic]
  · next htag =>
    split at h
    · next p _ =>
      obtain rfl : .send p = i := by simpa using h
      rw [if_neg htag, Instr.mnemonic]
    · cases h

/-! ## The opcode map -/

/-- The first row that fits a command, by its tag (30_encoding.md R52). -/
theorem rowOf_cmd (c : CmdWord) :
    rowOf (.cmd c) = some (if c.tag = 0 then ⟨"START", true, 0, 1⟩ else ⟨"SEND", true, 1, 1⟩) := by
  obtain ⟨tag, operand⟩ := c
  obtain rfl | rfl : tag = 0 ∨ tag = 1 := by revert tag; decide
  · simp [rowOf, opcodeTable, OpcodeRow.fits, Code.bits]
  · simp [rowOf, opcodeTable, OpcodeRow.fits, Code.bits]

/-- A symbol row with a full mask fits the one container it matches. -/
theorem fits_sym_of_full_mask (m : String) (x w : Container) :
    OpcodeRow.fits ⟨m, false, x, 0xFFFFFFFF⟩ (.sym w) = (w == x) := by
  have hall : w &&& 0xFFFFFFFF#32 = w := BitVec.and_allOnes
  simp [OpcodeRow.fits, Code.bits, hall]

/-- The first row that fits a symbol: the two exact matches, then the catch-all (30_encoding.md R52). -/
theorem rowOf_sym (w : Container) :
    rowOf (.sym w) = some (if w = 0x31#32 then ⟨"SYM_ONE", false, 0x31, 0xFFFFFFFF⟩
      else if w = 0x30#32 then ⟨"SYM_ZERO", false, 0x30, 0xFFFFFFFF⟩ else ⟨"SYM_SEP", false, 0, 0⟩) := by
  simp only [rowOf, opcodeTable, List.find?_cons, fits_sym_of_full_mask]
  split_ifs with h1 h0
  · simp [h1, OpcodeRow.fits]
  · simp [h0, OpcodeRow.fits]
  · simp [beq_false_of_ne h1, beq_false_of_ne h0, OpcodeRow.fits, Code.bits]

/-! ## The statements -/

/-- Settles O2: a pattern is read back symbol by symbol, and a well-formed separator is no data symbol. -/
theorem decodeOfEncodeIsTheInstruction : Obligations.DecodeOfEncodeIsTheInstruction := by
  intro i hwf
  cases i with
  | start => rfl
  | send p => exact decode_send_containerOf p
  | symOne => rfl
  | symZero => rfl
  | symSep c =>
    have hsep : symClass c = .sep := (symClass_eq_sep_iff c).2 (by simpa [Instr.wellFormed] using hwf)
    rw [encode, decode_sym_containerOf, symInstr_of_sep hsep]

/-- Settles O3. -/
theorem symbolDecodesByCodePoint : Obligations.SymbolDecodesByCodePoint := by
  intro c
  rw [decode_sym_containerOf, symInstr_eq]

/-- Settles O5: a command's row and its instruction both follow the tag, a symbol's both follow the code point. -/
theorem decoderTakesTheFirstFittingRow : Obligations.DecoderTakesTheFirstFittingRow := by
  refine ⟨rfl, fun code i h => ?_⟩
  cases code with
  | cmd c =>
    refine ⟨_, rowOf_cmd c, ?_⟩
    rw [mnemonic_of_decode_cmd h]
    split_ifs <;> rfl
  | sym w =>
    obtain ⟨c, hc, rfl⟩ := (decode_sym_eq_ok_iff w i).1 h
    obtain rfl := containerOf_of_symbolOf hc
    refine ⟨_, rowOf_sym _, ?_⟩
    simp only [symInstr_eq, containerOf_eq_ofNat_iff c (show 0x31 < 2 ^ 32 by decide),
      containerOf_eq_ofNat_iff c (show 0x30 < 2 ^ 32 by decide)]
    split_ifs <;> rfl

/-- Settles O6. -/
theorem tagSelectsTheCommand : Obligations.TagSelectsTheCommand := ⟨rfl, decode_send_containerOf⟩

/-- Settles O1, by evaluation of the eight codes. -/
theorem writtenWordsDecode : Obligations.WrittenWordsDecode := by
  unfold Obligations.WrittenWordsDecode
  decide

/-- Settles O4: a container decodes exactly when it holds a symbol, which is the condition of the SYM format. -/
theorem onlyScalarContainersDecode : Obligations.OnlyScalarContainersDecode := by
  intro w
  have hsymbol : (∃ i, decode (.sym w) = .ok i) ↔ Container.isSymbol w = true := by
    simp [decode_sym_eq_ok_iff, symbolOf]
  rw [hsymbol, Container.isSymbol, decide_eq_true_iff]
  rfl

end Sys2Proof
end

section
/-! PROOF. Running commands (40_commands.md R62 to R64): the step list performed one step at a time, and the acceptance. -/

namespace Sys2Proof.Machine

/-! ## Positions in the step list -/

theorem expand_start {s : State} (hc : s.cmd = .start) : s.expand = startSteps s.cfg := by simp [State.expand, hc]

theorem expand_send {s : State} (hc : s.cmd = .send) : s.expand = sendSteps s.cfg s.pattern := by
  simp [State.expand, hc]

/-- The steps of a SEND around the symbol at the symbol index. -/
theorem expand_send_of_symbol {s : State} {c : Char} (hc : s.cmd = .send) (hr : s.pattern[s.symIdx]? = some c) :
    s.expand = patternSteps s.cfg (s.pattern.take s.symIdx) ++ (symSteps s.cfg (symClass c) ++
      (patternSteps s.cfg (s.pattern.drop (s.symIdx + 1)) ++ gapSteps s.cfg)) := by
  obtain ⟨hlt, rfl⟩ := List.getElem?_eq_some_iff.1 hr
  have hsplit : s.pattern = s.pattern.take s.symIdx ++ s.pattern[s.symIdx] :: s.pattern.drop (s.symIdx + 1) := by simp
  have hsteps := congrArg (patternSteps s.cfg) hsplit
  rw [patternSteps_append, patternSteps_cons] at hsteps
  rw [expand_send hc, sendSteps, hsteps, List.append_assoc, List.append_assoc]

theorem getElem?_append_middle {α : Type} {pre mid post : List α} {i : Nat} (hlo : pre.length ≤ i)
    (hhi : i < pre.length + mid.length) : (pre ++ (mid ++ post))[i]? = mid[i - pre.length]? := by
  rw [List.getElem?_append_right hlo, List.getElem?_append_left (by omega)]

/-- The step list stays that of the command while the command goes on. -/
theorem expand_congr {s t : State} (hcfg : t.cfg = s.cfg) (hc : t.cmd = s.cmd) (hp : t.pattern = s.pattern) :
    t.expand = s.expand := by
  simp [State.expand, hcfg, hc, hp]

/-! ## A running command performs its step list -/

/-- The outcome of a running command's step is step `pc` of its step list, or the return after its last step; only the symbol index is
left open (40_commands.md R64). -/
def PerformsExpansion (s : State) (o : Outcome) : Prop :=
  (s.pc = s.expand.length → o = .next s.afterReturn) ∧
    ∀ st, s.expand[s.pc]? = some st → ∃ k, o = .next { s.afterStep st with symIdx := k }

/-- The rest of the step list that begins at a position does so. -/
theorem stepOrReturn_performs {s : State} {pre steps : List Step} (hexp : s.expand = pre ++ steps)
    (hpc : pre.length ≤ s.pc) : PerformsExpansion s (s.stepOrReturn pre.length steps) := by
  refine ⟨fun hend => ?_, fun st hst => ⟨(s.afterStep st).symIdx, ?_⟩⟩
  · rw [hexp, List.length_append] at hend
    rw [State.stepOrReturn, if_pos hend, endCommand_ok_eq_afterReturn]
  · rw [hexp, List.getElem?_append_right hpc] at hst
    have hlt := (List.getElem?_eq_some_iff.1 hst).1
    rw [State.stepOrReturn, if_neg (by omega), stepFrom_eq s _ steps st hpc hst, outcomeOf]

/-- A data symbol does so, at a position within its steps. -/
theorem symbolStep_performs {s : State} {c : Char} (hs : s.sending = true) (hr : s.pattern[s.symIdx]? = some c)
    (hlo : s.symBase ≤ s.pc) (hhi : s.pc < s.symBase + (symSteps s.cfg (symClass c)).length) :
    PerformsExpansion s (s.symbolStep (symClass c)) := by
  have hexp := expand_send_of_symbol ((sending_iff s).1 hs).2 hr
  have hbase : (patternSteps s.cfg (s.pattern.take s.symIdx)).length = s.symBase := rfl
  refine ⟨fun hend => ?_, fun st hst => ?_⟩
  · rw [hexp, List.length_append, List.length_append] at hend
    omega
  · rw [hexp, getElem?_append_middle hlo hhi] at hst
    rw [symbolStep_eq hs hlo hst]
    split
    · exact ⟨(s.afterStep st).symIdx + 1, rfl⟩
    · exact ⟨(s.afterStep st).symIdx, rfl⟩

/-- Passing over a symbol changes the symbol index only. -/
theorem PerformsExpansion.of_nextSymbol {s : State} {o : Outcome} (h : PerformsExpansion s.nextSymbol o) :
    PerformsExpansion s o := by
  obtain ⟨hreturn, hstep⟩ := h
  refine ⟨hreturn, fun st hst => ?_⟩
  obtain ⟨k, rfl⟩ := hstep st hst
  exact ⟨k, congrArg _ (afterStep_nextSymbol s st k)⟩

/-- SEND does so: induction on the number of symbols left. -/
theorem sendLoop_performs (n : Nat) {s : State} (hm : s.mode = .transmitting) (hc : s.cmd = .send)
    (hn : s.symIdx + n = s.pattern.length) (hi : s.Inv) : PerformsExpansion s (sendLoop n s) := by
  have hs : s.sending = true := (sending_iff s).2 ⟨hm, hc⟩
  induction n generalizing s with
  | zero => exact stepOrReturn_performs (expand_send hc) ((inv_send_iff_of_end hm hc hn).1 hi).1
  | succ n ih =>
    have hr : s.pattern[s.symIdx]? = some s.pattern[s.symIdx] := List.getElem?_eq_getElem (by omega)
    by_cases hsep : symClass s.pattern[s.symIdx] = .sep
    · rw [sendLoop_succ_of_sep n hs hr hsep]
      exact .of_nextSymbol (ih (s := s.nextSymbol) hm hc (by simp only [nextSymbol_symIdx, nextSymbol_pattern]; omega)
        (nextSymbol_keeps_inv hm hc hr hsep hi) hs)
    · rw [sendLoop_succ_of_data n hr hsep]
      obtain ⟨hlo, hhi⟩ := (inv_send_iff_of_symbol hm hc hr).1 hi
      refine symbolStep_performs hs hr hlo ?_
      rw [length_symSteps]
      have hwidth : 1 ≤ symWidth s.pattern[s.symIdx] := by
        unfold symWidth
        cases hk : symClass s.pattern[s.symIdx] with
        | one => decide
        | zero => decide
        | sep => exact absurd hk hsep
      omega

/-- A running command's step does so. -/
theorem runningStep_performs {s : State} (hrun : s.system = .running) (hi : s.Inv) (hm : s.mode = .transmitting) :
    PerformsExpansion s (step s) := by
  cases hc : s.cmd with
  | none => simp [State.Inv, hm, hc] at hi
  | start =>
    rw [step_start s hrun hm hc]
    exact stepOrReturn_performs (pre := []) (expand_start hc) (Nat.zero_le _)
  | send =>
    have hle := symIdx_le_of_inv hm hc hi
    rw [step_send s hrun hm hc]
    exact sendLoop_performs _ hm hc (by omega) hi

/-- The position is in the step list or at its end. -/
theorem pc_le_length_expand {s : State} (hi : s.Inv) (hm : s.mode = .transmitting) : s.pc ≤ s.expand.length := by
  cases hc : s.cmd with
  | none => simp [State.Inv, hm, hc] at hi
  | start =>
    rw [expand_start hc]
    exact ((inv_start_iff hm hc).1 hi).2.2
  | send =>
    cases hr : s.pattern[s.symIdx]? with
    | some c =>
      have hhi := ((inv_send_iff_of_symbol hm hc hr).1 hi).2
      have hbase : (patternSteps s.cfg (s.pattern.take s.symIdx)).length = s.symBase := rfl
      have hgap : (gapSteps s.cfg).length = 1 := rfl
      rw [expand_send_of_symbol hc hr]
      simp only [List.length_append, length_symSteps, hbase, hgap]
      omega
    | none =>
      have hend : s.symIdx = s.pattern.length :=
        (symIdx_le_of_inv hm hc hi).antisymm (List.getElem?_eq_none_iff.1 hr)
      have hhi := ((inv_send_iff_of_end hm hc hend).1 hi).2
      simpa [expand_send hc, sendSteps, gapSteps] using hhi

/-! ## Acceptance -/

/-- An idle block runs the command at its host port. -/
theorem step_presented {s : State} {c : CmdWord} {rest : List HostAct} {i : Instr} (hp : s.presented (.cmd c) rest)
    (hd : decode (.cmd c) = .ok i) : step s = exec i s := by
  obtain ⟨hrun, hm, hhost⟩ := hp
  simp [step, transition, hostTransition, hrun, hm, hhost, hd]

theorem step_startAct {s : State} {rest : List HostAct} (hp : s.presented startAct rest) :
    step s = .next (s.accept .start []) := by
  rw [step_presented hp (i := .start) rfl, exec, execStart, hp.2.1]

theorem step_sendAct {s : State} {p : List Char} {rest : List HostAct} (hp : s.presented (sendAct p) rest) :
    step s = .next (s.accept .send p) := by
  rw [step_presented hp (decode_send_containerOf p), exec, execSend, hp.2.1]

/-- A command presented to an idle block is accepted, and then stands before its whole step list. -/
theorem step_accepts {s : State} {a : HostAct} {steps : List Step} {rest : List HostAct}
    (hc : CommandSteps s.cfg a steps) (hp : s.presented a rest) :
    ∃ k p, step s = .next (s.accept k p) ∧ (s.accept k p).Inv ∧ (s.accept k p).expand = steps := by
  cases hc with
  | start => exact ⟨.start, [], step_startAct hp, accept_inv s (by simp) (by simp), rfl⟩
  | send p => exact ⟨.send, p, step_sendAct hp, accept_inv s (by simp) (by simp), rfl⟩

end Sys2Proof.Machine
end

section
/-! PROOF. Commands with no failed write (40_commands.md R63, R64), and the pseudo-operation MESSAGE (30_encoding.md R56). -/

namespace Sys2Proof.Machine

/-! ## Steps whose writes succeed -/

/-- The level of the pin after steps whose writes succeed. -/
def pinAfter : Level → List Step → Level
  | l, [] => l
  | _, .W l :: steps => pinAfter l steps
  | l, .D _ :: steps => pinAfter l steps

/-- The segments of the level trace that steps add when their writes succeed (10_state.md R21). -/
def stepSegments : Level → List Step → List (Level × Micros)
  | _, [] => []
  | _, .W l :: steps => stepSegments l steps
  | l, .D n :: steps => (l, n) :: stepSegments l steps

theorem pinAfter_append (l : Level) (as bs : List Step) : pinAfter l (as ++ bs) = pinAfter (pinAfter l as) bs := by
  induction as generalizing l with
  | nil => rfl
  | cons st as ih => cases st <;> exact ih _

theorem stepSegments_append (l : Level) (as bs : List Step) :
    stepSegments l (as ++ bs) = stepSegments l as ++ stepSegments (pinAfter l as) bs := by
  induction as generalizing l with
  | nil => rfl
  | cons st as ih =>
    cases st with
    | W x => exact ih x
    | D n => exact congrArg _ (ih l)

/-- The pin answers OK to the next write, and uses up that answer. -/
theorem write_of_writesSucceed {s : State} {n : Nat} (h : s.writesSucceed (n + 1)) :
    s.pinAnswer = .ok ∧ (s.cfg.pinFallible = true → s.answers = .ok :: s.afterPinAnswer.answers) := by
  by_cases hf : s.cfg.pinFallible = true
  · obtain ⟨more, hmore⟩ := h hf
    simp [State.pinAnswer, State.afterPinAnswer, hf, hmore, List.replicate_succ]
  · exact ⟨pinAnswer_infallible s (by simpa using hf), fun hf' => absurd hf' hf⟩

/-- Of the writes that succeed, those still to come after some of the answers are used. -/
theorem writesSucceed_of_answers {s t : State} {m n : Nat} (hcfg : t.cfg = s.cfg)
    (ha : s.cfg.pinFallible = true → s.answers = List.replicate m .ok ++ t.answers) (hw : s.writesSucceed (m + n)) :
    t.writesSucceed n := by
  intro hf
  rw [hcfg] at hf
  obtain ⟨more, hmore⟩ := hw hf
  rw [ha hf, List.replicate_add, List.append_assoc] at hmore
  exact ⟨more, List.append_cancel_left hmore⟩

/-- From s to t a running command performs these steps, and none of their writes fails. The symbol index is left open. -/
structure Performs (s t : State) (steps : List Step) : Prop where
  system : t.system = s.system
  cfg : t.cfg = s.cfg
  host : t.host = s.host
  mode : t.mode = s.mode
  cmd : t.cmd = s.cmd
  pattern : t.pattern = s.pattern
  pc : t.pc = s.pc + steps.length
  pin : t.pin = pinAfter s.pin steps
  trace : t.trace = s.trace ++ steps.map Step.okEvent
  wave : levelTrace t.wave = levelTrace s.wave ++ stepSegments s.pin steps
  answers : s.cfg.pinFallible = true → s.answers = List.replicate (steps.countP Step.isWrite) .ok ++ t.answers

theorem Performs.nil (s : State) : Performs s s [] := by
  constructor <;> simp [pinAfter, stepSegments]

theorem Performs.append {s u t : State} {as bs : List Step} (ha : Performs s u as) (hb : Performs u t bs) :
    Performs s t (as ++ bs) where
  system := hb.system.trans ha.system
  cfg := hb.cfg.trans ha.cfg
  host := hb.host.trans ha.host
  mode := hb.mode.trans ha.mode
  cmd := hb.cmd.trans ha.cmd
  pattern := hb.pattern.trans ha.pattern
  pc := by rw [hb.pc, ha.pc, List.length_append, Nat.add_assoc]
  pin := by rw [hb.pin, ha.pin, pinAfter_append]
  trace := by rw [hb.trace, ha.trace, List.map_append, List.append_assoc]
  wave := by rw [hb.wave, ha.wave, ha.pin, stepSegments_append, List.append_assoc]
  answers hf := by
    rw [ha.answers hf, hb.answers (ha.cfg ▸ hf), List.countP_append, List.replicate_add, List.append_assoc]

theorem Performs.writesSucceed {s t : State} {steps : List Step} {n : Nat} (h : Performs s t steps)
    (hw : s.writesSucceed (steps.countP Step.isWrite + n)) : t.writesSucceed n :=
  writesSucceed_of_answers h.cfg h.answers hw

theorem Performs.expand {s t : State} {steps : List Step} (h : Performs s t steps) : t.expand = s.expand :=
  expand_congr h.cfg h.cmd h.pattern

/-- What a step does when its write, if it is one, succeeds. -/
theorem afterStep_performs {s : State} {st : Step} {n : Nat} (k : Nat)
    (hw : s.writesSucceed ([st].countP Step.isWrite + n)) : Performs s { s.afterStep st with symIdx := k } [st] := by
  cases st with
  | W l =>
    have hw' : s.writesSucceed (n + 1) := by simpa [Step.isWrite, Nat.add_comm] using hw
    obtain ⟨hok, hanswers⟩ := write_of_writesSucceed hw'
    simp only [State.afterStep, State.afterWrite, hok]
    constructor <;> simp [Step.okEvent, Step.isWrite, pinAfter, stepSegments]
    case answers => exact hanswers
  | D n =>
    constructor <;>
      simp [State.afterStep, State.afterWait, Step.okEvent, Step.isWrite, pinAfter, stepSegments, levelTrace, Span.segment]

theorem stepN_succ {s u : State} (n : Nat) (h : step s = .next u) : stepN (n + 1) s = stepN n u := by
  simp [stepN, h]

/-- A running command performs the steps from its position on: induction on their list. -/
theorem stepN_performs (steps : List Step) {s : State} {more : List Step} {n : Nat} (hrun : s.system = .running)
    (hi : s.Inv) (hm : s.mode = .transmitting) (hsteps : s.expand.drop s.pc = steps ++ more)
    (hw : s.writesSucceed (steps.countP Step.isWrite + n)) :
    ∃ t, stepN steps.length s = .next t ∧ Performs s t steps ∧ t.Inv := by
  induction steps generalizing s with
  | nil => exact ⟨s, rfl, .nil s, hi⟩
  | cons st steps ih =>
    have hst : s.expand[s.pc]? = some st := by
      rw [← List.head?_drop, hsteps]
      rfl
    rw [← List.singleton_append, List.countP_append, Nat.add_assoc] at hw
    obtain ⟨k, hstep⟩ := (runningStep_performs hrun hi hm).2 st hst
    have hone := afterStep_performs k hw
    have hrest : s.expand.drop (s.pc + 1) = steps ++ more := by
      rw [← List.tail_drop, hsteps]
      rfl
    obtain ⟨t, hrun', hmany, hi'⟩ := ih (hone.system.trans hrun) (everyStepKeepsThePosition _ _ hi hstep)
      (hone.mode.trans hm) (by rw [hone.expand, hone.pc]; exact hrest) (hone.writesSucceed hw)
    exact ⟨t, (stepN_succ _ hstep).trans hrun', hone.append hmany, hi'⟩

/-! ## A whole command -/

/-- From s to t a command is accepted, performs these steps, none of whose writes fails, and returns. -/
structure Completes (s t : State) (steps : List Step) : Prop where
  system : t.system = s.system
  cfg : t.cfg = s.cfg
  host : t.host = s.host.tail
  atRest : t.AtRest
  pin : t.pin = pinAfter s.pin steps
  trace : t.trace = s.trace ++ (steps.map Step.okEvent ++ [.R .ok])
  wave : levelTrace t.wave = levelTrace s.wave ++ stepSegments s.pin steps
  answers : s.cfg.pinFallible = true → s.answers = List.replicate (steps.countP Step.isWrite) .ok ++ t.answers

theorem Completes.writesSucceed {s t : State} {steps : List Step} {n : Nat} (h : Completes s t steps)
    (hw : s.writesSucceed (steps.countP Step.isWrite + n)) : t.writesSucceed n :=
  writesSucceed_of_answers h.cfg h.answers hw

theorem Performs.completes {s u : State} {c : Cmd} {p : List Char} {steps : List Step}
    (h : Performs (s.accept c p) u steps) : Completes s u.afterReturn steps where
  system := h.system
  cfg := h.cfg
  host := h.host
  atRest := u.afterReturn_atRest
  pin := h.pin
  trace := by
    change u.trace ++ [.R .ok] = _
    rw [h.trace, List.append_assoc, accept_trace]
  wave := h.wave
  answers := h.answers

/-- A whole command with no failed write: the acceptance, its steps, and the return. -/
theorem stepN_command {s : State} {a : HostAct} {steps : List Step} {rest : List HostAct} {n : Nat}
    (hc : CommandSteps s.cfg a steps) (hp : s.presented a rest)
    (hw : s.writesSucceed (steps.countP Step.isWrite + n)) :
    ∃ t, stepN (steps.length + 2) s = .next t ∧ Completes s t steps := by
  obtain ⟨c, p, haccept, hi, hexp⟩ := step_accepts hc hp
  obtain ⟨u, hsteps, hperf, hi'⟩ := stepN_performs steps (s := s.accept c p) (more := []) hp.1 hi rfl
    (by rw [hexp, List.append_nil]; rfl) hw
  have hend : u.pc = u.expand.length := by
    rw [hperf.pc, hperf.expand, hexp]
    exact Nat.zero_add _
  have hreturn := (runningStep_performs (hperf.system.trans hp.1) hi' (hperf.mode.trans rfl)).1 hend
  refine ⟨u.afterReturn, ?_, hperf.completes⟩
  rw [stepN_succ _ haccept, stepN_add _ _ _ _ hsteps, stepN_succ _ hreturn, stepN]

/-! ## The writes of a SEND -/

@[simp] theorem dataSymbols_cons (c : Char) (p : List Char) :
    dataSymbols (c :: p) = if isDataSymbol c then c :: dataSymbols p else dataSymbols p := List.filter_cons

theorem isDataSymbol_of_symClass_ne_sep {c : Char} (h : symClass c ≠ .sep) : isDataSymbol c = true := by
  simpa [symClass_eq_sep_iff] using h

/-- A data symbol has two writes, a separator none. -/
theorem countP_isWrite_symSteps (cfg : Configuration) (c : Char) :
    (symSteps cfg (symClass c)).countP Step.isWrite = if isDataSymbol c then 2 else 0 := by
  cases hk : symClass c with
  | one => rw [if_pos (isDataSymbol_of_symClass_ne_sep (by simp [hk]))]; rfl
  | zero => rw [if_pos (isDataSymbol_of_symClass_ne_sep (by simp [hk]))]; rfl
  | sep => rw [if_neg (by simp [(symClass_eq_sep_iff c).1 hk])]; rfl

/-- A data symbol leaves the pin LOW, a separator leaves it as it is. -/
theorem pinAfter_symSteps (cfg : Configuration) (c : Char) (l : Level) :
    pinAfter l (symSteps cfg (symClass c)) = if isDataSymbol c then .low else l := by
  cases hk : symClass c with
  | one => rw [if_pos (isDataSymbol_of_symClass_ne_sep (by simp [hk]))]; rfl
  | zero => rw [if_pos (isDataSymbol_of_symClass_ne_sep (by simp [hk]))]; rfl
  | sep => rw [if_neg (by simp [(symClass_eq_sep_iff c).1 hk])]; rfl

theorem countP_isWrite_patternSteps (cfg : Configuration) (p : List Char) :
    (patternSteps cfg p).countP Step.isWrite = 2 * (dataSymbols p).length := by
  induction p with
  | nil => rfl
  | cons c p ih =>
    rw [patternSteps_cons, List.countP_append, ih, countP_isWrite_symSteps, dataSymbols_cons]
    split
    · rw [List.length_cons]
      omega
    · exact Nat.zero_add _

theorem countP_isWrite_sendSteps (cfg : Configuration) (p : List Char) :
    (sendSteps cfg p).countP Step.isWrite = 2 * (dataSymbols p).length := by
  rw [sendSteps, List.countP_append, countP_isWrite_patternSteps]
  rfl

theorem pinAfter_patternSteps (cfg : Configuration) (p : List Char) (l : Level) :
    pinAfter l (patternSteps cfg p) = if dataSymbols p = [] then l else .low := by
  induction p generalizing l with
  | nil => rfl
  | cons c p ih =>
    rw [patternSteps_cons, pinAfter_append, ih, pinAfter_symSteps, dataSymbols_cons]
    by_cases hc : isDataSymbol c = true <;> simp [hc]

/-- The gap follows the last write, if there is one (40_commands.md R68). -/
theorem pinAfter_sendSteps (cfg : Configuration) (p : List Char) (l : Level) :
    pinAfter l (sendSteps cfg p) = if dataSymbols p = [] then l else .low := by
  rw [sendSteps, pinAfter_append, pinAfter_patternSteps]
  rfl

/-! ## MESSAGE -/

/-- Consecutive SENDs of one pattern: induction on their number. -/
theorem stepN_frames (n : Nat) {s : State} {p : List Char} {rest : List HostAct} (hrun : s.system = .running)
    (hm : s.mode = .idle) (hh : s.host = List.replicate n (sendAct p) ++ rest)
    (hw : s.writesSucceed (n * (2 * (dataSymbols p).length))) :
    ∃ t, stepN (n * ((sendSteps s.cfg p).length + 2)) s = .next t ∧
      t.trace = s.trace ++ (List.replicate n ((sendSteps s.cfg p).map Step.okEvent ++ [.R .ok])).flatten ∧
      t.mode = .idle ∧ t.host = rest ∧ (0 < n ∨ s.pin = .low → dataSymbols p ≠ [] → t.pin = .low) := by
  induction n generalizing s with
  | zero => exact ⟨s, by rw [Nat.zero_mul, stepN], by simp, hm, hh, fun hpin _ => hpin.resolve_left (Nat.lt_irrefl 0)⟩
  | succ n ih =>
    rw [Nat.succ_mul, Nat.add_comm, ← countP_isWrite_sendSteps s.cfg] at hw
    rw [List.replicate_succ, List.cons_append] at hh
    obtain ⟨u, hfirst, hdone⟩ := stepN_command (.send p) ⟨hrun, hm, hh⟩ hw
    have hhost : u.host = List.replicate n (sendAct p) ++ rest := by rw [hdone.host, hh, List.tail_cons]
    have hw' : u.writesSucceed (n * (2 * (dataSymbols p).length)) := by
      rw [← countP_isWrite_sendSteps s.cfg]
      exact hdone.writesSucceed hw
    obtain ⟨t, hothers, htrace, hmode, hrest, hpin⟩ := ih (hdone.system.trans hrun) hdone.atRest.1 hhost hw'
    rw [hdone.cfg] at hothers htrace
    refine ⟨t, ?_, ?_, hmode, hrest, fun _ hdata => hpin (.inr ?_) hdata⟩
    · rw [Nat.succ_mul, Nat.add_comm, stepN_add _ _ _ _ hfirst, hothers]
    · rw [htrace, hdone.trace, List.replicate_succ, List.flatten_cons, List.append_assoc]
    · rw [hdone.pin, pinAfter_sendSteps, if_neg hdata]

/-- Settles O33: START as one command, then the SENDs. -/
theorem messageEmitsItsFrames : Obligations.MessageEmitsItsFrames := by
  intro s p n rest hrun hm hh hw
  rw [message, List.cons_append] at hh
  obtain ⟨u, hstart, hdone⟩ := stepN_command .start ⟨hrun, hm, hh⟩ hw
  have hhost : u.host = List.replicate n (sendAct p) ++ rest := by rw [hdone.host, hh, List.tail_cons]
  obtain ⟨t, hframes, htrace, hmode, hrest, hpin⟩ :=
    stepN_frames n (hdone.system.trans hrun) hdone.atRest.1 hhost (hdone.writesSucceed hw)
  rw [hdone.cfg] at hframes htrace
  refine ⟨t, ?_, ?_, hmode, hrest, fun hn => hpin (.inl hn)⟩
  · exact (stepN_add _ _ _ _ hstart).trans hframes
  · rw [htrace, hdone.trace]
    rfl

end Sys2Proof.Machine
end

section
/-! PROOF. Separators do not change the trace (30_encoding.md R57): a running SEND's future depends on its pattern only through its
step list. -/

namespace Sys2Proof.Machine

/-! ## The normal form of a pattern -/

/-- A pattern's steps are those of its data symbols (30_encoding.md R57). -/
theorem patternSteps_dataSymbols (cfg : Configuration) (p : List Char) :
    patternSteps cfg (dataSymbols p) = patternSteps cfg p := by
  induction p with
  | nil => rfl
  | cons c p ih =>
    by_cases hc : isDataSymbol c = true
    · rw [dataSymbols_cons, if_pos hc, patternSteps_cons, ih, patternSteps_cons]
    · have hsep : symClass c = .sep := (symClass_eq_sep_iff c).2 (by simpa using hc)
      rw [dataSymbols_cons, if_neg hc, ih, patternSteps_cons, hsep, symSteps, List.nil_append]

theorem sendSteps_congr (cfg : Configuration) {p q : List Char} (h : dataSymbols p = dataSymbols q) :
    sendSteps cfg p = sendSteps cfg q := by
  rw [sendSteps, sendSteps, ← patternSteps_dataSymbols, h, patternSteps_dataSymbols]

/-! ## Another pattern in the store -/

/-- The state with another pattern, consumed up to another symbol. -/
def State.withSymbols (s : State) (p : List Char) (i : Nat) : State := { s with pattern := p, symIdx := i }

theorem afterPinAnswer_withSymbols (s : State) (p : List Char) (i : Nat) :
    (s.withSymbols p i).afterPinAnswer = s.afterPinAnswer.withSymbols p i := by
  unfold State.afterPinAnswer State.withSymbols
  dsimp only
  split
  · split <;> rfl
  · rfl

theorem afterSlack_withSymbols (s : State) (p : List Char) (i : Nat) :
    (s.withSymbols p i).afterSlack = s.afterSlack.withSymbols p i := by
  unfold State.afterSlack State.withSymbols
  dsimp only
  split <;> rfl

/-- A step of a step list does not see the pattern store; it leaves it, or clears it where it ends the command. -/
theorem afterStep_withSymbols (s : State) (p : List Char) (i : Nat) (st : Step) :
    ∃ q, ∀ j, ({ (s.withSymbols p i).afterStep st with symIdx := j } : State) = (s.afterStep st).withSymbols q j := by
  refine ⟨((s.withSymbols p i).afterStep st).pattern, fun j => ?_⟩
  cases st with
  | W l =>
    have ha : (s.withSymbols p i).pinAnswer = s.pinAnswer := rfl
    have hc : (s.withSymbols p i).cfg = s.cfg := rfl
    simp only [State.afterStep, State.afterWrite, ha, hc, afterPinAnswer_withSymbols]
    cases s.pinAnswer with
    | ok => rfl
    | err x => cases s.cfg.faultPolicy <;> rfl
  | D n =>
    simp only [State.afterStep, State.afterWait, afterSlack_withSymbols]
    rfl

theorem atRest_of_inv {s : State} (hi : s.Inv) (hm : s.mode = .idle) : s.AtRest := (inv_idle_iff hm).1 hi

/-- At rest the pattern store is empty, so there is no other one. -/
theorem State.AtRest.withSymbols_eq {s : State} {p : List Char} {i : Nat} (h : s.AtRest)
    (h' : (s.withSymbols p i).AtRest) : s.withSymbols p i = s := by
  obtain ⟨-, -, -, hpat, hidx⟩ := h
  obtain ⟨-, -, -, hp, hi⟩ := h'
  change p = [] at hp
  change i = 0 at hi
  rw [State.withSymbols, hp, hi, ← hpat, ← hidx]

/-- A step that goes on leaves the step list. -/
theorem expand_afterStep {s : State} {st : Step} (h : (s.afterStep st).mode = .transmitting) :
    (s.afterStep st).expand = s.expand := by
  obtain ⟨hcmd, hpat, -⟩ := afterStep_keeps_command h
  exact expand_congr (afterStep_frame s st).1 hcmd hpat

/-! ## The simulation -/

/-- The same state, or the state of a running command with another pattern that gives the same step list. -/
inductive SameExpansion (s : State) : State → Prop where
  | refl : SameExpansion s s
  | running (p : List Char) (i : Nat) : s.system = .running → s.mode = .transmitting → s.Inv → (s.withSymbols p i).Inv →
      (s.withSymbols p i).expand = s.expand → SameExpansion s (s.withSymbols p i)

/-- The patterns are seen in no trace. -/
theorem SameExpansion.traces {s s' : State} (h : SameExpansion s s') : s'.trace = s.trace ∧ s'.wave = s.wave := by
  cases h with
  | refl => exact ⟨rfl, rfl⟩
  | running => exact ⟨rfl, rfl⟩

/-- A step performed from the same place in the same step list: the commands both go on, or both end at rest. -/
theorem sameExpansion_afterStep {s : State} {p : List Char} {i k k' : Nat} {st : Step} (hrun : s.system = .running)
    (hexp : (s.withSymbols p i).expand = s.expand) (hi : State.Inv { s.afterStep st with symIdx := k })
    (hi' : State.Inv { (s.withSymbols p i).afterStep st with symIdx := k' }) :
    SameExpansion { s.afterStep st with symIdx := k } { (s.withSymbols p i).afterStep st with symIdx := k' } := by
  obtain ⟨q, hq⟩ := afterStep_withSymbols s p i st
  have hmode : ((s.withSymbols p i).afterStep st).mode = (s.afterStep st).mode :=
    (congrArg State.mode (hq 0) :)
  have heq : ({ (s.withSymbols p i).afterStep st with symIdx := k' } : State) =
      State.withSymbols { s.afterStep st with symIdx := k } q k' := hq k'
  cases hm : (s.afterStep st).mode with
  | idle =>
    rw [heq] at hi' ⊢
    rw [State.AtRest.withSymbols_eq (atRest_of_inv hi hm) (atRest_of_inv hi' hm)]
    exact .refl
  | transmitting =>
    have hexp' := ((expand_afterStep (hmode.trans hm)).trans hexp).trans (expand_afterStep hm).symm
    rw [heq] at hi' ⊢
    refine .running q k' ((afterStep_frame s st).2.1.trans hrun) hm hi hi' ?_
    rw [← heq]
    exact hexp'

/-- The simulation: each step of one block is answered by a step of the other. -/
theorem sameExpansion_step {s s' t : State} (h : SameExpansion s s') (ht : step s = .next t) :
    ∃ t', step s' = .next t' ∧ SameExpansion t t' := by
  cases h with
  | refl => exact ⟨t, ht, .refl⟩
  | running p i hrun hm hi hi' hexp =>
    obtain ⟨hreturn, hstep⟩ := runningStep_performs hrun hi hm
    obtain ⟨hreturn', hstep'⟩ := runningStep_performs (s := s.withSymbols p i) hrun hi' hm
    rw [hexp] at hreturn' hstep'
    obtain hend | hlt := (pc_le_length_expand hi hm).eq_or_lt
    · obtain rfl : s.afterReturn = t := by simpa [hreturn hend] using ht
      exact ⟨_, hreturn' hend, .refl⟩
    · have hst := List.getElem?_eq_getElem hlt
      obtain ⟨k, hk⟩ := hstep _ hst
      obtain ⟨k', hk'⟩ := hstep' _ hst
      obtain rfl := Host.Outcome.next.inj (hk.symm.trans ht)
      exact ⟨_, hk', sameExpansion_afterStep hrun hexp (everyStepKeepsThePosition _ _ hi hk)
        (everyStepKeepsThePosition _ _ hi' hk')⟩

/-- Runs of any length: induction on the number of steps. -/
theorem sameExpansion_stepN (n : Nat) {s s' t : State} (h : SameExpansion s s') (ht : stepN n s = .next t) :
    ∃ t', stepN n s' = .next t' ∧ SameExpansion t t' := by
  induction n generalizing s s' with
  | zero =>
    obtain rfl : s = t := by simpa [stepN] using ht
    exact ⟨s', rfl, h⟩
  | succ n ih =>
    obtain ⟨u, hu, hrest⟩ := stepN_succ_cases ht
    obtain ⟨u', hu', hsame⟩ := sameExpansion_step h hu
    rw [stepN_succ n hu']
    exact ih hsame hrest

/-- Patterns with the same data symbols are accepted into states with the same step list. -/
theorem sameExpansion_accept (s : State) {p q : List Char} (hrun : s.system = .running)
    (h : dataSymbols p = dataSymbols q) :
    SameExpansion (s.accept .send p) ((s.accept .send p).withSymbols q 0) :=
  .running q 0 hrun rfl (accept_inv s (by simp) (by simp)) (accept_inv (p := q) s (by simp) (by simp))
    (sendSteps_congr s.cfg h.symm)

/-- Settles O31: before the acceptance nothing differs but the host's list, and from the acceptance on the simulation holds. -/
theorem separatorsDoNotChangeTheTrace : Obligations.SeparatorsDoNotChangeTheTrace := by
  intro s t p q rest n hp hdata ht
  cases n with
  | zero =>
    obtain rfl : s = t := by simpa [stepN] using ht
    exact ⟨_, rfl, rfl, rfl⟩
  | succ n =>
    obtain ⟨hrun, hm, hh⟩ := hp
    rw [stepN_succ n (step_sendAct ⟨hrun, hm, hh⟩)] at ht
    obtain ⟨t', ht', hsame⟩ := sameExpansion_stepN n (sameExpansion_accept s hrun hdata) ht
    obtain ⟨htrace, hwave⟩ := hsame.traces
    have hstep : step { s with host := sendAct q :: rest } = .next ((s.accept .send p).withSymbols q 0) := by
      rw [step_sendAct (s := { s with host := sendAct q :: rest }) ⟨hrun, hm, rfl⟩]
      simp [State.accept, State.withSymbols, hh]
    exact ⟨t', (stepN_succ n hstep).trans ht', htrace, by rw [hwave]⟩

end Sys2Proof.Machine
end

section
/-! PROOF. The transitions of the commands (40_commands.md R62 to R68): the acceptance, each step of START, the end of SEND, and the
position as the trace shows it. -/

namespace Sys2Proof.Machine

/-! ## The position in the trace -/

theorem stepsSinceReturn_append (k : Nat) (es fs : List Event) :
    stepsSinceReturn k (es ++ fs) = stepsSinceReturn (stepsSinceReturn k es) fs := by
  induction es generalizing k with
  | nil => rfl
  | cons e es ih => cases e <;> exact ih _

/-- From the position on, the events of a step count up to the position after it, also where the step ends the command. -/
theorem stepsSinceReturn_stepEvents (s : State) (st : Step) :
    stepsSinceReturn s.pc (stepEvents s st) = (s.afterStep st).pc := by
  cases st with
  | W l =>
    simp only [stepEvents, State.afterStep, State.afterWrite]
    cases s.pinAnswer with
    | ok => rfl
    | err x => cases s.cfg.faultPolicy <;> rfl
  | D n => rfl

/-- Settles O54: a step adds the events that lead from its position to the next, a return's R event starts the count again at rest, and
an acceptance finds the position at 0. -/
theorem traceHoldsThePosition : Obligations.TraceHoldsThePosition := by
  intro s t hi hcount h
  obtain ⟨-, hmove⟩ | ⟨b, acts, -, rfl⟩ := step_moves s t h
  · cases hmove with
    | stay => exact hcount
    | accept c rest k p hm =>
      obtain ⟨-, -, hpc, -, -⟩ := atRest_of_inv hi hm
      exact hcount.trans hpc
    | pause => exact hcount
    | finish => exact stepsSinceReturn_append 0 s.trace [.R .ok]
    | work st k =>
      change stepsSinceReturn 0 (s.afterStep st).trace = (s.afterStep st).pc
      rw [(afterStep_events s st).1, stepsSinceReturn_append, hcount, stepsSinceReturn_stepEvents]
  · exact hcount

/-! ## Acceptance -/

theorem exec_start_of_idle {s : State} (hm : s.mode = .idle) : exec .start s = .next (s.accept .start []) := by
  rw [exec, execStart, hm]

theorem exec_send_of_idle {s : State} (p : List Char) (hm : s.mode = .idle) :
    exec (.send p) s = .next (s.accept .send p) := by
  rw [exec, execSend, hm]

/-- A running command's step, and bring-up, leave the host port. -/
theorem step_keeps_host {s t : State} (hm : s.mode = .transmitting) (h : step s = .next t) : t.host = s.host := by
  obtain ⟨-, hmove⟩ | ⟨b, acts, -, rfl⟩ := step_moves s t h
  · cases hmove with
    | stay => rfl
    | accept _ _ _ _ hidle => simp [hm] at hidle
    | pause _ _ hidle => simp [hm] at hidle
    | finish => rfl
    | work st => exact (afterStep_frame s st).2.2
  · rfl

/-- Settles O17: the idle case of each command's meaning, and the moves of a running block, none of which takes a host act. -/
theorem commandAcceptance : Obligations.CommandAcceptance :=
  ⟨fun _ hm => exec_start_of_idle hm, fun _ p hm => exec_send_of_idle p hm, fun _ _ hm h => step_keeps_host hm h⟩

/-! ## The transitions of START and the end of SEND -/

/-- The rest of a step list takes its step at the position; `stepOrReturn_cases` is the converse. -/
theorem stepOrReturn_of_step {s : State} {base : Nat} {steps : List Step} {st : Step} (hb : base ≤ s.pc)
    (hst : steps[s.pc - base]? = some st) : s.stepOrReturn base steps = .next (s.afterStep st) := by
  have hlt := (List.getElem?_eq_some_iff.1 hst).1
  rw [State.stepOrReturn, if_neg (by omega), stepFrom_eq s base steps st hb hst, outcomeOf]

/-- The rest of a step list returns after its last step. -/
theorem stepOrReturn_of_end {s : State} {base : Nat} {steps : List Step} (hend : s.pc = base + steps.length) :
    s.stepOrReturn base steps = .next s.afterReturn := by
  rw [State.stepOrReturn, if_pos hend, endCommand_ok_eq_afterReturn]

theorem exec_start_of_running {s : State} (hm : s.mode = .transmitting) (hc : s.cmd = .start) :
    exec .start s = s.stepOrReturn 0 (startSteps s.cfg) := by
  simp [exec, execStart, hm, hc]

/-- Settles O20: the step of START's step list at each position, and the return after them. -/
theorem startTransitions : Obligations.StartTransitions := by
  intro s hm hc
  rw [exec_start_of_running hm hc]
  have hstep {i : Nat} {st : Step} (hp : s.pc = i) (hst : (startSteps s.cfg)[i]? = some st) :
      s.stepOrReturn 0 (startSteps s.cfg) = .next (s.afterStep st) :=
    stepOrReturn_of_step (Nat.zero_le _) (hp ▸ hst)
  exact ⟨fun hp => hstep hp rfl, fun hp => hstep hp rfl, fun hp => hstep hp rfl, fun hp => hstep hp rfl,
    fun hp => stepOrReturn_of_end hp⟩

/-- When all symbols are consumed, SEND has its end before it. -/
theorem exec_send_of_end {s : State} (hs : s.sending = true) (he : s.symIdx = s.pattern.length) :
    exec (.send s.pattern) s = sendTail s := by
  obtain ⟨hm, hc⟩ := (sending_iff s).1 hs
  simp [exec, execSend, hm, hc, he, sendLoop]

/-- Settles O26: the gap is the one step behind the symbols' steps, and the return follows it. -/
theorem frameGapEndsSend : Obligations.FrameGapEndsSend := by
  refine ⟨fun _ _ => rfl, fun s hs he => ?_⟩
  rw [exec_send_of_end hs he, sendTail]
  refine ⟨fun hp => ⟨stepOrReturn_of_step (st := .D s.cfg.tGap) hp.ge ?_, afterSlack_pin s⟩,
    fun hp => stepOrReturn_of_end hp⟩
  rw [hp, Nat.sub_self]
  rfl

/-- Settles O34: the position lemma and the step lemma of a running command. -/
theorem stepPerformsTheExpansion : Obligations.StepPerformsTheExpansion := by
  intro s hrun hi hm
  obtain ⟨hreturn, hstep⟩ := runningStep_performs hrun hi hm
  exact ⟨pc_le_length_expand hi hm, hreturn, hstep⟩

end Sys2Proof.Machine
end

section
/-! PROOF. Whole commands (40_commands.md R63, R66 to R71): the lengths and nominal times of the step lists, and the traces of START
and SEND with no failed write. -/

namespace Sys2Proof.Machine

/-! ## Lengths -/

theorem countClass_cons (k : SymClass) (c : Char) (p : List Char) :
    countClass k (c :: p) = countClass k p + if symClass c = k then 1 else 0 := by
  simp [countClass, List.countP_cons]

theorem length_patternSteps (cfg : Configuration) (p : List Char) :
    (patternSteps cfg p).length = 4 * (countClass .one p + countClass .zero p) := by
  induction p with
  | nil => rfl
  | cons c p ih =>
    rw [patternSteps_cons, List.length_append, ih, countClass_cons, countClass_cons]
    cases symClass c with
    | one => simp [symSteps]; omega
    | zero => simp [symSteps]; omega
    | sep => simp [symSteps]

/-- Settles O28: the gap is the one step beside the four of each data symbol. -/
theorem stepListLengths : Obligations.StepListLengths := by
  refine fun cfg => ⟨rfl, rfl, fun p => ?_⟩
  rw [sendSteps, List.length_append, length_patternSteps]
  rfl

/-! ## Nominal times -/

theorem levelTime_append (want l : Level) (as bs : List Step) :
    levelTime want l (as ++ bs) = levelTime want l as + levelTime want (pinAfter l as) bs := by
  induction as generalizing l with
  | nil => exact (Nat.zero_add _).symm
  | cons st as ih =>
    cases st with
    | W x => exact ih x
    | D n =>
      rw [List.cons_append, levelTime, ih, ← Nat.add_assoc]
      rfl

theorem nominalTime_cons (st : Step) (steps : List Step) :
    nominalTime (st :: steps) = st.nominal + nominalTime steps := by
  simp [nominalTime]

/-- All of the time is spent at one of the two levels. -/
theorem nominalTime_eq_levelTimes (l : Level) (steps : List Step) :
    nominalTime steps = levelTime .high l steps + levelTime .low l steps := by
  induction steps generalizing l with
  | nil => rfl
  | cons st steps ih =>
    cases st with
    | W x => rw [nominalTime_cons, ih x, levelTime, levelTime, Step.nominal, Nat.zero_add]
    | D n =>
      rw [nominalTime_cons, ih l, levelTime, levelTime, Step.nominal]
      cases l <;> simp <;> omega

/-- A pattern spends at a level what its ones and its zeros spend there, from whatever level it begins at: each data symbol begins with
a pin write. -/
theorem levelTime_patternSteps (cfg : Configuration) (p : List Char) (want l : Level) :
    levelTime want l (patternSteps cfg p) =
      countClass .one p * levelTime want .low (symSteps cfg .one) +
        countClass .zero p * levelTime want .low (symSteps cfg .zero) := by
  induction p generalizing l with
  | nil => simp [levelTime, countClass]
  | cons c p ih =>
    rw [patternSteps_cons, levelTime_append, ih, countClass_cons, countClass_cons]
    cases symClass c with
    | one => simp [symSteps, levelTime]; ring
    | zero => simp [symSteps, levelTime]; ring
    | sep => simp [symSteps, levelTime]

/-- Settles O29: the times of one symbol at each level, and of the gap. -/
theorem nominalTimesOfSend : Obligations.NominalTimesOfSend := by
  intro cfg p hOneHi hOneLo hZeroHi hZeroLo hGap
  have hhigh (l : Level) :
      levelTime .high l (patternSteps cfg p) = 741 * countClass .one p + 247 * countClass .zero p := by
    simp [levelTime_patternSteps, symSteps, levelTime, hOneHi, hZeroHi, Nat.mul_comm]
  have hlow (l : Level) :
      levelTime .low l (patternSteps cfg p) = 247 * countClass .one p + 741 * countClass .zero p := by
    simp [levelTime_patternSteps, symSteps, levelTime, hOneLo, hZeroLo, Nat.mul_comm]
  have hactive : nominalTime (patternSteps cfg p) = 988 * (countClass .one p + countClass .zero p) := by
    rw [nominalTime_eq_levelTimes .low, hhigh, hlow]
    omega
  have htotal : nominalTime (sendSteps cfg p) = nominalTime (patternSteps cfg p) + 7000 := by
    simp [nominalTime, sendSteps, gapSteps, Step.nominal, hGap]
  exact ⟨hactive, by rw [htotal, hactive], fun l => ⟨hhigh l, hlow l⟩⟩

/-! ## Traces -/

/-- Settles O21: START is one command of two writes. -/
theorem startEmitsThePreamble : Obligations.StartEmitsThePreamble := by
  intro s rest hp hw
  obtain ⟨t, ht, hdone⟩ := stepN_command (n := 0) .start hp hw
  obtain ⟨hrun, -, hh⟩ := hp
  obtain ⟨hmode, hcmd, hpc, hpat, hidx⟩ := hdone.atRest
  exact ⟨t, ht, hdone.trace, hdone.wave, hdone.pin, hmode, hcmd, hpc, hpat, hidx,
    by rw [hdone.host, hh, List.tail_cons], hdone.cfg, hdone.system.trans hrun⟩

theorem stepSegments_symSteps (cfg : Configuration) (c : Char) (l : Level) :
    stepSegments l (symSteps cfg (symClass c)) = symSegments cfg c := by
  unfold symSegments
  cases symClass c <;> rfl

theorem stepSegments_patternSteps (cfg : Configuration) (p : List Char) (l : Level) :
    stepSegments l (patternSteps cfg p) = p.flatMap (symSegments cfg) := by
  induction p generalizing l with
  | nil => rfl
  | cons c p ih => rw [patternSteps_cons, stepSegments_append, ih, stepSegments_symSteps, List.flatMap_cons]

/-- The gap is one segment at the level that the pattern leaves, which is also the level at the end. -/
theorem stepSegments_sendSteps (cfg : Configuration) (p : List Char) (l : Level) :
    stepSegments l (sendSteps cfg p) = p.flatMap (symSegments cfg) ++ [(pinAfter l (sendSteps cfg p), cfg.tGap)] := by
  rw [pinAfter_sendSteps, ← pinAfter_patternSteps cfg p l, sendSteps, stepSegments_append, stepSegments_patternSteps]
  rfl

/-- Settles O27: SEND is one command, with two writes for each data symbol. -/
theorem sendEmitsThePattern : Obligations.SendEmitsThePattern := by
  intro s p rest hp hw
  rw [← countP_isWrite_sendSteps s.cfg] at hw
  obtain ⟨t, ht, hdone⟩ := stepN_command (n := 0) (.send p) hp hw
  obtain ⟨hrun, -, hh⟩ := hp
  obtain ⟨hmode, hcmd, hpc, hpat, hidx⟩ := hdone.atRest
  refine ⟨t, ht, ?_, ?_, ?_, hmode, hcmd, hpc, hpat, hidx, ?_, hdone.cfg, hdone.system.trans hrun⟩
  · rw [hdone.trace, List.append_assoc]
  · rw [hdone.wave, stepSegments_sendSteps, ← hdone.pin, List.append_assoc]
  · rw [hdone.pin, pinAfter_sendSteps]
  · rw [hdone.host, hh, List.tail_cons]

/-- Settles O32: two consecutive frames, each of which is the symbols' events and then the gap and the return. -/
theorem repeatedSendRepeatsItsTrace : Obligations.RepeatedSendRepeatsItsTrace := by
  intro s p rest hp hw
  obtain ⟨hrun, hm, hh⟩ := hp
  rw [show 4 = 2 * 2 from rfl, Nat.mul_assoc] at hw
  obtain ⟨t, hframes, htrace, -⟩ := stepN_frames 2 (rest := rest) hrun hm hh hw
  refine ⟨t, _, hframes, ?_, rfl⟩
  rw [htrace]
  simp [List.replicate_succ, sendSteps, gapSteps, Step.okEvent]

end Sys2Proof.Machine
end

section
/-! PROOF. The symbol operations (41_symbols.md R77 to R79): their transitions inside a SEND and their frame. -/

namespace Sys2Proof.Machine

/-! ## The data symbols -/

theorem exec_symOne (s : State) : exec .symOne s = s.symbolStep .one := rfl

theorem exec_symZero (s : State) : exec .symZero s = s.symbolStep .zero := rfl

/-- The step of a data symbol at its i-th position, before the last one. -/
theorem symbolStep_of_inner {s : State} {k : SymClass} {i : Nat} {st : Step} (hs : s.sending = true)
    (hp : s.pc = s.symBase + i) (hst : (symSteps s.cfg k)[i]? = some st) (hi : i + 1 ≠ (symSteps s.cfg k).length) :
    s.symbolStep k = .next (s.afterStep st) := by
  have hsub : s.pc - s.symBase = i := by omega
  rw [symbolStep_eq hs (by omega) (hsub ▸ hst), if_neg (by omega)]

/-- The last step of a data symbol consumes it. -/
theorem symbolStep_of_last {s : State} {k : SymClass} {i : Nat} {st : Step} (hs : s.sending = true)
    (hp : s.pc = s.symBase + i) (hst : (symSteps s.cfg k)[i]? = some st) (hi : i + 1 = (symSteps s.cfg k).length) :
    s.symbolStep k = .next (s.afterStep st).nextSymbol := by
  have hsub : s.pc - s.symBase = i := by omega
  rw [symbolStep_eq hs (by omega) (hsub ▸ hst), if_pos (by omega)]

theorem afterWait_nextSymbol (s : State) (n : Micros) :
    (s.afterWait n).nextSymbol = { s.afterWait n with symIdx := s.symIdx + 1 } := by
  simp [State.nextSymbol, State.afterWait]

/-- The four transitions of a data symbol whose pulse is HIGH for `hi` and then LOW for `lo`. -/
theorem symbolStep_of_pulse {s : State} {k : SymClass} {hi lo : Micros} (hs : s.sending = true)
    (hk : symSteps s.cfg k = [.W .high, .D hi, .W .low, .D lo]) :
    (s.pc = s.symBase → s.symbolStep k = .next (s.afterWrite .high)) ∧
    (s.pc = s.symBase + 1 → s.symbolStep k = .next (s.afterWait hi)) ∧
    (s.pc = s.symBase + 2 → s.symbolStep k = .next (s.afterWrite .low)) ∧
    (s.pc = s.symBase + 3 → s.symbolStep k = .next { s.afterWait lo with symIdx := s.symIdx + 1 }) := by
  rw [← afterWait_nextSymbol]
  refine ⟨fun hp => symbolStep_of_inner (i := 0) (st := .W .high) hs hp ?_ ?_,
    fun hp => symbolStep_of_inner (st := .D hi) hs hp ?_ ?_,
    fun hp => symbolStep_of_inner (st := .W .low) hs hp ?_ ?_,
    fun hp => symbolStep_of_last (st := .D lo) hs hp ?_ ?_⟩ <;> simp [hk]

/-- Settles O22: SYM_ONE is the pulse of T_ONE_HI and T_ONE_LO. -/
theorem symOneTransitions : Obligations.SymOneTransitions := by
  intro s hs
  rw [exec_symOne]
  exact symbolStep_of_pulse hs rfl

/-- Settles O23: SYM_ZERO is the pulse of T_ZERO_HI and T_ZERO_LO. -/
theorem symZeroTransitions : Obligations.SymZeroTransitions := by
  intro s hs
  rw [exec_symZero]
  exact symbolStep_of_pulse hs rfl

/-! ## The separator -/

theorem symClass_of_ne {c : Char} (h0 : c.toNat ≠ 0x30) (h1 : c.toNat ≠ 0x31) : symClass c = .sep := by
  rw [symClass, if_neg h1, if_neg h0]

theorem exec_symSep_of_sending {s : State} (c : Char) (hs : s.sending = true) :
    exec (.symSep c) s = .next s.nextSymbol := by
  rw [exec, execSymSep, if_pos hs]

/-- What a separator does when it goes on, in any state. -/
theorem exec_symSep_eq_next {s t : State} {c : Char} (h : exec (.symSep c) s = .next t) : t = s.nextSymbol := by
  rw [exec, execSymSep] at h
  split at h
  · simpa using h.symm
  · cases h

/-- Settles O24: the class of such a symbol decides its instruction and its step list, and SYM_SEP is `nextSymbol`. -/
theorem separatorDoesNothing : Obligations.SeparatorDoesNothing := by
  refine ⟨fun c h0 h1 => ?_, fun s c hs => exec_symSep_of_sending c hs⟩
  have hsep := symClass_of_ne h0 h1
  rw [decode_sym_containerOf, symInstr_of_sep hsep, hsep]
  exact ⟨rfl, fun _ => rfl⟩

/-! ## The frame -/

/-- A step of a step list that does not end the command goes to the next position. -/
theorem afterStep_pc {s : State} {st : Step} (h : (s.afterStep st).mode = .transmitting) :
    (s.afterStep st).pc = s.pc + 1 := by
  obtain ⟨-, -, hpc, -⟩ | ⟨-, hidle, -⟩ := afterStep_position s st
  · exact hpc
  · simp [hidle] at h

/-- The frame of a data symbol's step that does not end the command. -/
theorem symbolStep_frame {s t : State} {k : SymClass} (h : s.symbolStep k = .next t) (ht : t.mode = .transmitting) :
    t.cmd = s.cmd ∧ t.pattern = s.pattern ∧ t.host = s.host ∧ t.cfg = s.cfg ∧ t.system = s.system ∧
      t.pc = s.pc + 1 := by
  obtain ⟨st, j, rfl, -⟩ := symbolStep_work s k t h
  obtain ⟨hcmd, hpat, -⟩ := afterStep_keeps_command (s := s) (st := st) ht
  obtain ⟨hcfg, hsys, hhost⟩ := afterStep_frame s st
  exact ⟨hcmd, hpat, hhost, hcfg, hsys, afterStep_pc ht⟩

/-- Settles O44: a data symbol's step moves only the position, and a separator only the symbol index. -/
theorem symbolFrame : Obligations.SymbolFrame := by
  refine ⟨fun i s t hi h ht => ?_, fun c s t h => ?_⟩
  · obtain ⟨k, hk⟩ : ∃ k, s.symbolStep k = .next t := by
      obtain rfl | rfl := hi
      · exact ⟨.one, h⟩
      · exact ⟨.zero, h⟩
    obtain ⟨hcmd, hpat, hrest⟩ := symbolStep_frame hk ht
    exact ⟨hcmd, fun a => congrArg (Memory.read · a) hpat, hrest⟩
  · obtain rfl := exec_symSep_eq_next h
    simp

end Sys2Proof.Machine
end

section
/-! PROOF. What decides the next step (60_exceptions.md section 3): bring-up and its fatal faults, the host's acts, the moves of a
running command. Neither the pin's level nor the waveform is among it. -/

namespace Sys2Proof.Machine

/-! ## Bring-up and its fatal faults -/

theorem step_halted {s : State} {f : BringUpFault} (h : s.system = .halted f) : step s = .fault f.stop := by
  simp [step, transition, h]

/-- Settles O10. -/
theorem haltedSystemStops : Obligations.HaltedSystemStops :=
  fun _ => ⟨fun h => step_halted h, fun h => step_halted h⟩

/-- After the first call of the factory, another one halts whatever its answer (60_exceptions.md R88). -/
theorem bootNext_of_secondAcquire {b : BootProgress} (ok : Bool) (rest : List BootAct) (hb : b.handles = true) :
    b.next (.acquire ok :: rest) = .halted .doubleAcquisition := by
  simp [BootProgress.next, BootProgress.act, hb]

/-- Settles O11: the step is one of bring-up, and the system it leaves is halted. -/
theorem secondAcquisitionHalts : Obligations.SecondAcquisitionHalts := by
  intro s b ok rest hs hb
  refine ⟨?_, step_halted (f := .doubleAcquisition) rfl⟩
  rw [step_booting s b _ hs, bootNext_of_secondAcquire ok rest hb, State.setSystem]

/-! ## The moves of an idle block -/

/-- What an idle block does with the host's acts to come (40_commands.md R62, 60_exceptions.md R101). -/
inductive HostMove : List HostAct → (State → Outcome) → Prop where
  | stay : HostMove [] .next
  | pause (us : Nat) (rest : List HostAct) :
      HostMove (.pause us :: rest) fun s => .next (s.addSpan (.idle s.pin us)).popHost
  | accept (c : CmdWord) (rest : List HostAct) (k : Cmd) (p : List Char) :
      HostMove (.cmd c :: rest) fun s => .next (s.accept k p)
  | refuse (c : CmdWord) (rest : List HostAct) (r : Refusal) :
      CmdWord.decodes c = false → HostMove (.cmd c :: rest) fun _ => .refused r

/-- The host's list alone decides what an idle block does. -/
theorem idleStep_makes (acts : List HostAct) :
    ∃ m, HostMove acts m ∧ ∀ s : State, s.system = .running → s.mode = .idle → s.host = acts → step s = m s := by
  cases acts with
  | nil => exact ⟨_, .stay, fun s hrun hm hh => by simp [step, transition, hostTransition, hrun, hm, hh]⟩
  | cons a rest =>
    cases a with
    | pause us => exact ⟨_, .pause us rest, fun s hrun hm hh => by simp [step, transition, hostTransition, hrun, hm, hh]⟩
    | cmd c =>
      cases hd : decode (.cmd c) with
      | ok i =>
        obtain rfl | ⟨p, rfl⟩ := decode_cmd_cases c i hd
        · exact ⟨_, .accept c rest .start [],
            fun s hrun hm hh => (step_presented ⟨hrun, hm, hh⟩ hd).trans (exec_start_of_idle hm)⟩
        · exact ⟨_, .accept c rest .send p,
            fun s hrun hm hh => (step_presented ⟨hrun, hm, hh⟩ hd).trans (exec_send_of_idle p hm)⟩
      | error e =>
        obtain ⟨w⟩ := e
        exact ⟨_, .refuse c rest (.notAScalarValue w) (by simp [CmdWord.decodes, hd]),
          fun s hrun hm hh => by simp [step, transition, hostTransition, hrun, hm, hh, hd]⟩

/-! ## The moves of a running command -/

/-- What a running command can do next, as a function of the state: the return, a step of its step list, the last step of a symbol, one
of these behind a separator (41_symbols.md R79), or a stop at a position that no run reaches (log 14). -/
inductive CommandMove : (State → Outcome) → Prop where
  | finish : CommandMove fun s => .next s.afterReturn
  | work (st : Step) : CommandMove fun s => .next (s.afterStep st)
  | last (st : Step) : CommandMove fun s => .next (s.afterStep st).nextSymbol
  | skip {m : State → Outcome} : CommandMove m → CommandMove fun s => m s.nextSymbol
  | lost : CommandMove fun _ => .fault .sequencerLost
  | outOfRange : CommandMove fun _ => .fault .patternOutOfRange

/-- The state with another pin level, and another waveform, which records the level (10_state.md R21). -/
def State.withPin (s : State) (l : Level) (w : List Span) : State := { s with pin := l, wave := w }

/-- At the position of s a meaning makes this move, whatever the pin's level and its waveform are. -/
def Makes (f : State → Outcome) (s : State) (m : State → Outcome) : Prop :=
  CommandMove m ∧ ∀ l w, f (s.withPin l w) = m (s.withPin l w)

/-- The move as that of the state itself. -/
theorem Makes.eq {f m : State → Outcome} {s : State} (h : Makes f s m) : f s = m s := h.2 s.pin s.wave

/-- Whether a step list has a step at the position. -/
theorem stepFrom_some_or_none (s : State) (base : Nat) (steps : List Step) :
    (∃ st, base ≤ s.pc ∧ steps[s.pc - base]? = some st) ∨ ∀ l w, (s.withPin l w).stepFrom base steps = none := by
  by_cases hb : base ≤ s.pc
  · cases hst : steps[s.pc - base]? with
    | some st => exact .inl ⟨st, hb, rfl⟩
    | none => exact .inr fun l w => by simp [State.stepFrom, State.withPin, hst]
  · exact .inr fun l w => by simp [State.stepFrom, State.withPin, hb]

theorem stepOrReturn_makes (s : State) (base : Nat) (steps : List Step) :
    ∃ m, Makes (·.stepOrReturn base steps) s m := by
  by_cases hend : s.pc = base + steps.length
  · exact ⟨_, .finish, fun l w => stepOrReturn_of_end (s := s.withPin l w) hend⟩
  · obtain ⟨st, hb, hst⟩ | hnone := stepFrom_some_or_none s base steps
    · exact ⟨_, .work st, fun l w => stepOrReturn_of_step (s := s.withPin l w) hb hst⟩
    · exact ⟨_, .lost, fun l w => (if_neg hend).trans (congrArg outcomeOf (hnone l w))⟩

theorem symbolStep_makes {s : State} (k : SymClass) (hs : s.sending = true) : ∃ m, Makes (·.symbolStep k) s m := by
  obtain ⟨st, hb, hst⟩ | hnone := stepFrom_some_or_none s s.symBase (symSteps s.cfg k)
  · have heq (l : Level) (w : List Span) := symbolStep_eq (s := s.withPin l w) hs hb hst
    by_cases hend : s.pc + 1 = s.symBase + (symSteps s.cfg k).length
    · exact ⟨_, .last st, fun l w => (heq l w).trans (congrArg _ (if_pos hend))⟩
    · exact ⟨_, .work st, fun l w => (heq l w).trans (congrArg _ (if_neg hend))⟩
  · refine ⟨_, .lost, fun l w => ?_⟩
    have hnone' : (s.withPin l w).stepFrom (s.withPin l w).symBase (symSteps (s.withPin l w).cfg k) = none := hnone l w
    simp only [State.symbolStep, if_pos (show (s.withPin l w).sending = true from hs), hnone']

/-- SEND makes one move: induction on the number of symbols left. -/
theorem sendLoop_makes (n : Nat) {s : State} (hs : s.sending = true) : ∃ m, Makes (sendLoop n) s m := by
  induction n generalizing s with
  | zero => exact stepOrReturn_makes s (patternSteps s.cfg s.pattern).length (gapSteps s.cfg)
  | succ n ih =>
    cases hr : s.pattern[s.symIdx]? with
    | none => exact ⟨_, .outOfRange, fun l w => by simp [sendLoop, Memory.read, State.withPin, hr]⟩
    | some c =>
      by_cases hsep : symClass c = .sep
      · obtain ⟨m, hmove, hm⟩ := ih (s := s.nextSymbol) hs
        exact ⟨_, .skip hmove, fun l w => (sendLoop_succ_of_sep (s := s.withPin l w) n hs hr hsep).trans (hm l w)⟩
      · obtain ⟨m, hmove, hm⟩ := symbolStep_makes (symClass c) hs
        exact ⟨m, hmove, fun l w => (sendLoop_succ_of_data (s := s.withPin l w) n hr hsep).trans (hm l w)⟩

/-- A running command's step is one move. -/
theorem runningStep_makes {s : State} (hrun : s.system = .running) (hm : s.mode = .transmitting) :
    ∃ m, Makes step s m := by
  cases hc : s.cmd with
  | none => exact ⟨_, .lost, fun l w => by simp [step, transition, State.withPin, hrun, hm, hc]⟩
  | start =>
    obtain ⟨m, hmove, hmake⟩ := stepOrReturn_makes s 0 (startSteps s.cfg)
    exact ⟨m, hmove, fun l w => (step_start (s.withPin l w) hrun hm hc).trans (hmake l w)⟩
  | send =>
    obtain ⟨m, hmove, hmake⟩ := sendLoop_makes (s.pattern.length - s.symIdx) ((sending_iff s).2 ⟨hm, hc⟩)
    exact ⟨m, hmove, fun l w => (step_send (s.withPin l w) hrun hm hc).trans (hmake l w)⟩

/-! ## The stops of a constructed block -/

theorem CommandMove.fault_cases {m : State → Outcome} (hmove : CommandMove m) {s : State} {f : Fault}
    (h : m s = .fault f) : f = .sequencerLost ∨ f = .patternOutOfRange := by
  induction hmove generalizing s with
  | finish => cases h
  | work => cases h
  | last => cases h
  | skip _ ih => exact ih h
  | lost => exact .inl (Host.Outcome.fault.inj h).symm
  | outOfRange => exact .inr (Host.Outcome.fault.inj h).symm

/-- The faults of a constructed block are those of a position that no run reaches (log 14). -/
theorem fault_of_running {s : State} {f : Fault} (hrun : s.system = .running) (h : step s = .fault f) :
    f = .sequencerLost ∨ f = .patternOutOfRange := by
  cases hm : s.mode with
  | idle =>
    obtain ⟨m, hmove, hstep⟩ := idleStep_makes s.host
    rw [hstep s hrun hm rfl] at h
    generalize s.host = acts at hmove
    cases hmove <;> cases h
  | transmitting =>
    obtain ⟨m, hmake⟩ := runningStep_makes hrun hm
    rw [hmake.eq] at h
    exact hmake.1.fault_cases h

theorem step_keeps_running {s t : State} (hrun : s.system = .running) (h : step s = .next t) : t.system = .running := by
  obtain ⟨-, hmove⟩ | ⟨b, acts, hboot, -⟩ := step_moves s t h
  · cases hmove with
    | stay => exact hrun
    | accept => exact hrun
    | pause => exact hrun
    | finish => exact hrun
    | work st => exact (afterStep_frame s st).2.1.trans hrun
  · simp [hboot] at hrun

/-- Settles O14: the steps of a constructed block keep it and have other stops, and bring-up's steps change the system only. -/
theorem fatalFaultsPrecedeConstruction : Obligations.FatalFaultsPrecedeConstruction := by
  refine ⟨fun s hrun => ⟨fun t => step_keeps_running hrun, fun h => ?_, fun h => ?_⟩, fun s t hno h => ?_⟩
  · simpa using fault_of_running hrun h
  · simpa using fault_of_running hrun h
  · obtain ⟨hrun, -⟩ | ⟨b, acts, -, rfl⟩ := step_moves s t h
    · exact absurd hrun hno
    · exact ⟨b.next acts, rfl⟩

/-! ## No run stops -/

/-- A step leaves the host's list or takes its oldest act. -/
theorem step_host_suffix {s t : State} (h : step s = .next t) : t.host <:+ s.host := by
  obtain ⟨-, hmove⟩ | ⟨b, acts, -, rfl⟩ := step_moves s t h
  · cases hmove with
    | stay => exact List.suffix_rfl
    | accept => exact List.tail_suffix _
    | pause => exact List.tail_suffix _
    | finish => exact List.suffix_rfl
    | work st => exact (afterStep_frame s st).2.2 ▸ List.suffix_rfl
  · exact List.suffix_rfl

/-- A running command at a sound position returns, or performs its next step. -/
theorem runningStep_cases {s : State} (hrun : s.system = .running) (hi : s.Inv) (hm : s.mode = .transmitting) :
    (s.pc = s.expand.length ∧ step s = .next s.afterReturn) ∨
      ∃ st k, s.expand[s.pc]? = some st ∧ step s = .next { s.afterStep st with symIdx := k } := by
  obtain ⟨hreturn, hstep⟩ := runningStep_performs hrun hi hm
  obtain hend | hlt := (pc_le_length_expand hi hm).eq_or_lt
  · exact .inl ⟨hend, hreturn hend⟩
  · have hst := List.getElem?_eq_getElem hlt
    obtain ⟨k, hk⟩ := hstep _ hst
    exact .inr ⟨_, k, hst, hk⟩

/-- At a sound position, with proper acts to come, there is a next state. -/
theorem step_safe {s : State} (hrun : s.system = .running) (hi : s.Inv) (hh : s.host.all HostAct.proper = true) :
    Safe (step s) := by
  cases hm : s.mode with
  | idle =>
    obtain ⟨m, hmove, hstep⟩ := idleStep_makes s.host
    rw [hstep s hrun hm rfl]
    generalize s.host = acts at hmove hh
    cases hmove with
    | stay => exact ⟨_, rfl⟩
    | pause => exact ⟨_, rfl⟩
    | accept => exact ⟨_, rfl⟩
    | refuse c rest r hc => simp [HostAct.proper, hc] at hh
  | transmitting =>
    obtain ⟨-, h⟩ | ⟨st, k, -, h⟩ := runningStep_cases hrun hi hm
    · exact ⟨_, h⟩
    · exact ⟨_, h⟩

/-- Settles O41, by induction on the number of steps: each is safe and keeps the position and what is asked of the host. -/
theorem noRunStops : Obligations.NoRunStops := by
  intro s n hrun hi hh
  induction n generalizing s with
  | zero => exact ⟨s, rfl⟩
  | succ n ih =>
    obtain ⟨t, ht⟩ := step_safe hrun hi hh
    have hh' : t.host.all HostAct.proper = true :=
      List.all_eq_true.2 fun a ha => List.all_eq_true.1 hh a ((step_host_suffix ht).subset ha)
    rw [stepN_succ n ht]
    exact ih t (step_keeps_running hrun ht) (everyStepKeepsThePosition s t hi ht) hh'

/-! ## The pin's level -/

theorem afterPinAnswer_withPin (s : State) (l : Level) (w : List Span) :
    (s.withPin l w).afterPinAnswer = s.afterPinAnswer.withPin l w := by
  unfold State.afterPinAnswer State.withPin
  dsimp only
  split
  · split <;> rfl
  · rfl

theorem afterSlack_withPin (s : State) (l : Level) (w : List Span) :
    (s.withPin l w).afterSlack = s.afterSlack.withPin l w := by
  unfold State.afterSlack State.withPin
  dsimp only
  split <;> rfl

/-- A step of a step list reads the pin's level into the waveform only. -/
theorem afterStep_withPin (s : State) (l : Level) (w : List Span) (st : Step) :
    ∃ l' w', (s.withPin l w).afterStep st = (s.afterStep st).withPin l' w' := by
  refine ⟨((s.withPin l w).afterStep st).pin, ((s.withPin l w).afterStep st).wave, ?_⟩
  cases st with
  | W x =>
    have ha : (s.withPin l w).pinAnswer = s.pinAnswer := rfl
    have hc : (s.withPin l w).cfg = s.cfg := rfl
    simp only [State.afterStep, State.afterWrite, ha, hc, afterPinAnswer_withPin]
    cases s.pinAnswer with
    | ok => rfl
    | err y => cases s.cfg.faultPolicy <;> rfl
  | D n =>
    simp only [State.afterStep, State.afterWait, afterSlack_withPin]
    rfl

/-- No move of a running command reads the pin's level. -/
theorem CommandMove.withPin {m : State → Outcome} (hmove : CommandMove m) {s t : State} (l : Level) (w : List Span)
    (h : m s = .next t) : ∃ l' w', m (s.withPin l w) = .next (t.withPin l' w') := by
  induction hmove generalizing s with
  | finish =>
    obtain rfl := Host.Outcome.next.inj h
    exact ⟨l, w, rfl⟩
  | work st =>
    obtain rfl := Host.Outcome.next.inj h
    obtain ⟨l', w', heq⟩ := afterStep_withPin s l w st
    exact ⟨l', w', congrArg _ heq⟩
  | last st =>
    obtain rfl := Host.Outcome.next.inj h
    obtain ⟨l', w', heq⟩ := afterStep_withPin s l w st
    exact ⟨l', w', congrArg (fun u => Host.Outcome.next u.nextSymbol) heq⟩
  | skip _ ih => exact ih (s := s.nextSymbol) h
  | lost => cases h
  | outOfRange => cases h

/-- No act of the host reads the pin's level, but into the waveform. -/
theorem HostMove.withPin {acts : List HostAct} {m : State → Outcome} (hmove : HostMove acts m) {s t : State} (l : Level)
    (w : List Span) (h : m s = .next t) : ∃ l' w', m (s.withPin l w) = .next (t.withPin l' w') := by
  cases hmove with
  | stay =>
    obtain rfl := Host.Outcome.next.inj h
    exact ⟨l, w, rfl⟩
  | pause us =>
    obtain rfl := Host.Outcome.next.inj h
    exact ⟨l, w ++ [.idle l us], rfl⟩
  | accept =>
    obtain rfl := Host.Outcome.next.inj h
    exact ⟨l, w, rfl⟩
  | refuse => cases h

/-- No step reads the pin's level: another one gives a step to the same state but for the pin and its waveform. -/
theorem step_withPin {s t : State} (l : Level) (w : List Span) (h : step s = .next t) :
    ∃ l' w', step (s.withPin l w) = .next (t.withPin l' w') := by
  obtain ⟨hrun, -⟩ | ⟨b, acts, hboot, rfl⟩ := step_moves s t h
  · cases hm : s.mode with
    | idle =>
      obtain ⟨m, hmove, hstep⟩ := idleStep_makes s.host
      rw [hstep s hrun hm rfl] at h
      rw [hstep (s.withPin l w) hrun hm rfl]
      exact hmove.withPin l w h
    | transmitting =>
      obtain ⟨m, hmake⟩ := runningStep_makes hrun hm
      rw [hmake.eq] at h
      rw [hmake.2 l w]
      exact hmake.1.withPin l w h
  · exact ⟨l, w, step_booting (s.withPin l w) b acts hboot⟩

theorem stepN_withPin (n : Nat) {s t : State} (l : Level) (w : List Span) (h : stepN n s = .next t) :
    ∃ l' w', stepN n (s.withPin l w) = .next (t.withPin l' w') := by
  induction n generalizing s l w with
  | zero =>
    obtain rfl := Host.Outcome.next.inj h
    exact ⟨l, w, rfl⟩
  | succ n ih =>
    obtain ⟨u, hstep, hrest⟩ := stepN_succ_cases h
    obtain ⟨l', w', hstep'⟩ := step_withPin l w hstep
    rw [stepN_succ n hstep']
    exact ih l' w' hrest

/-- Settles O56: the run from the other level ends in the same state but for the pin and its waveform. -/
theorem pinLevelChangesNoEvent : Obligations.PinLevelChangesNoEvent := by
  intro s t l n h
  obtain ⟨l', w', hrun⟩ := stepN_withPin n l s.wave h
  exact ⟨t.withPin l' w', hrun, rfl, rfl, rfl⟩

end Sys2Proof.Machine
end

section
/-! PROOF. The pin-write fault in one step (60_exceptions.md R81 to R85, R91): when it arises, what it records, and how the command
goes on or ends. -/

namespace Sys2Proof.Machine

/-! ## When a write fails -/

/-- Settles O48: a failed write needs an answer ERR, which an infallible pin does not give. -/
theorem infalliblePinNeverFails : Obligations.InfalliblePinNeverFails := by
  intro s t es hpin h htrace l hl
  cases records_of_step h htrace with
  | nothing => simp at hl
  | finish => simp at hl
  | step st =>
    obtain ⟨-, x, hx⟩ := (failedWrite_mem_stepEvents s st l).1 hl
    simp [pinAnswer_infallible s hpin] at hx

/-- The step that records a failed write of level l is that write, of a running command, and records nothing but its events. -/
theorem step_of_failedWrite {s t : State} {es : List Event} {l : Level} (h : step s = .next t)
    (htrace : t.trace = s.trace ++ es) (hl : .W l .err ∈ es) :
    s.system = .running ∧ s.mode = .transmitting ∧
      ∃ x k, s.pinAnswer = .err x ∧ es = stepEvents s (.W l) ∧ t = { s.afterWrite l with symIdx := k } := by
  have hnone {fs : List Event} (hfs : .W l .err ∉ fs) : t.trace ≠ s.trace ++ fs :=
    fun ht => hfs (List.append_cancel_left (htrace.symm.trans ht) ▸ hl)
  obtain ⟨hrun, hmove⟩ | ⟨b, acts, -, rfl⟩ := step_moves s t h
  · cases hmove with
    | stay => exact absurd (List.append_nil _).symm (hnone List.not_mem_nil)
    | accept => exact absurd (List.append_nil _).symm (hnone List.not_mem_nil)
    | pause => exact absurd (List.append_nil _).symm (hnone List.not_mem_nil)
    | finish => exact absurd rfl (hnone (fs := [.R .ok]) (by simp))
    | work st k hm =>
      obtain rfl : es = stepEvents s st := List.append_cancel_left (htrace.symm.trans (afterStep_events s st).1)
      obtain ⟨rfl, x, hx⟩ := (failedWrite_mem_stepEvents s st l).1 hl
      exact ⟨hrun, hm, x, k, hx, rfl, rfl⟩
  · exact absurd (List.append_nil _).symm (hnone List.not_mem_nil)

/-! ## At most one in a step -/

/-- Of the events of a step, at most one is no return. -/
theorem countP_stepEvents_le_one (s : State) (st : Step) {p : Event → Bool} (hp : ∀ r, p (.R r) = false) :
    (stepEvents s st).countP p ≤ 1 := by
  cases st with
  | W l =>
    simp only [stepEvents]
    cases s.pinAnswer with
    | ok => exact List.countP_le_length
    | err x =>
      cases s.cfg.faultPolicy with
      | suppress => exact List.countP_le_length
      | propagate =>
        have hret : [Event.R .err].countP p = 0 := by simp [hp]
        rw [List.countP_cons, hret]
        split <;> omega
  | D n => exact List.countP_le_length

theorem countP_le_one_of_step {s t : State} {es : List Event} (h : step s = .next t) (htrace : t.trace = s.trace ++ es)
    {p : Event → Bool} (hp : ∀ r, p (.R r) = false) : es.countP p ≤ 1 := by
  cases records_of_step h htrace with
  | nothing => exact Nat.zero_le 1
  | finish => exact List.countP_le_length
  | step st => exact countP_stepEvents_le_one s st hp

/-- Settles O53: the counts, and the failed write's whole next state under each policy. -/
theorem oneFaultPerStep : Obligations.OneFaultPerStep := by
  intro s t es h htrace
  refine ⟨countP_le_one_of_step h htrace fun _ => rfl, countP_le_one_of_step h htrace fun _ => rfl, fun l hl => ?_⟩
  obtain ⟨hrun, hm, x, k, hx, rfl, rfl⟩ := step_of_failedWrite h htrace hl
  refine ⟨hrun, step_keeps_running hrun h, fun hpol => ?_, fun hpol => ?_⟩
  · simp [stepEvents, State.afterWrite, hx, hpol, hm]
  · simp [stepEvents, State.afterWrite, hx, hpol]

/-! ## Under PROPAGATE -/

/-- A step that goes back to idle leaves no symbol consumed. -/
theorem symIdx_of_idle {s t : State} (hi : s.Inv) (h : step s = .next t) (hm : t.mode = .idle) : t.symIdx = 0 := by
  obtain ⟨-, -, -, -, hidx⟩ := atRest_of_inv (everyStepKeepsThePosition s t hi h) hm
  exact hidx

/-- Settles O49: the step is the write, and a command that it ends is at rest. -/
theorem propagateEndsTheCommand : Obligations.PropagateEndsTheCommand := by
  intro s l hrun hi hm hpol hst
  obtain ⟨k, hstep⟩ := (runningStep_performs hrun hi hm).2 _ hst
  refine ⟨fun x hx => ?_, fun hok => ⟨k, ?_⟩⟩
  · have hidle : (s.afterStep (.W l)).mode = .idle := by simp [State.afterStep, State.afterWrite, hx, hpol]
    obtain rfl : k = 0 := symIdx_of_idle hi hstep hidle
    simpa [State.afterStep, State.afterWrite, hx, hpol] using hstep
  · simpa [State.afterStep, State.afterWrite, hok] using hstep

/-! ## The faults read off the trace -/

theorem pinFaultsFrom_append (k : Nat) (es fs : List Event) :
    pinFaultsFrom k (es ++ fs) = pinFaultsFrom k es ++ pinFaultsFrom (stepsSinceReturn k es) fs := by
  induction es generalizing k with
  | nil => rfl
  | cons e es ih =>
    cases e with
    | W l r =>
      cases r with
      | ok => exact ih (k + 1)
      | err => exact congrArg (_ :: ·) (ih (k + 1))
    | D n => exact ih (k + 1)
    | R r => exact ih 0

/-- Events without a failed write record no fault. -/
theorem pinFaultsFrom_eq_nil (k : Nat) {es : List Event} (h : ∀ l, .W l .err ∉ es) : pinFaultsFrom k es = [] := by
  induction es generalizing k with
  | nil => rfl
  | cons e es ih =>
    have hes : ∀ l, .W l .err ∉ es := fun l hl => h l (List.mem_cons_of_mem e hl)
    cases e with
    | W l r =>
      cases r with
      | ok => exact ih (k + 1) hes
      | err => exact absurd List.mem_cons_self (h l)
    | D n => exact ih (k + 1) hes
    | R r => exact ih 0 hes

/-- A failed write records its level at the step index, under either policy. -/
theorem pinFaultsFrom_failedWrite {s : State} {l x : Level} (k : Nat) (hx : s.pinAnswer = .err x) :
    pinFaultsFrom k (stepEvents s (.W l)) = [⟨l, k⟩] := by
  simp only [stepEvents, hx]
  cases s.cfg.faultPolicy <;> rfl

/-- Where the trace holds the position, a step adds to the faults those of its own events, from the step index on. -/
theorem pinFaults_of_trace {s t : State} {es : List Event} (hcount : stepsSinceReturn 0 s.trace = s.pc)
    (htrace : t.trace = s.trace ++ es) : pinFaults t.trace = pinFaults s.trace ++ pinFaultsFrom s.pc es := by
  rw [pinFaults, htrace, pinFaultsFrom_append, hcount, pinFaults]

/-- The step at the position of a running command is the one whose events a failed write is among. -/
theorem expand_of_failedWrite {s t : State} {es : List Event} {l : Level} (hi : s.Inv) (h : step s = .next t)
    (htrace : t.trace = s.trace ++ es) (hl : .W l .err ∈ es) : s.expand[s.pc]? = some (.W l) := by
  obtain ⟨hrun, hm, -⟩ := step_of_failedWrite h htrace hl
  obtain ⟨-, hret⟩ | ⟨st, k, hst, hstep⟩ := runningStep_cases hrun hi hm
  · obtain rfl := Host.Outcome.next.inj (hret.symm.trans h)
    obtain rfl : [.R .ok] = es := List.append_cancel_left htrace
    simp at hl
  · obtain rfl := Host.Outcome.next.inj (hstep.symm.trans h)
    obtain rfl : stepEvents s st = es := List.append_cancel_left ((afterStep_events s st).1.symm.trans htrace)
    obtain ⟨rfl, -⟩ := (failedWrite_mem_stepEvents s st l).1 hl
    exact hst

/-- Settles O55: the step of a failing write records it at the position, and a step that records a failed write is such a step. -/
theorem faultInformationIsInTheTrace : Obligations.FaultInformationIsInTheTrace := by
  intro s t hrun hi hcount h
  refine ⟨fun l x hm hst hx => ?_, fun hno => ?_⟩
  · obtain ⟨k, hk⟩ := (runningStep_performs hrun hi hm).2 _ hst
    obtain rfl := Host.Outcome.next.inj (hk.symm.trans h)
    rw [pinFaults_of_trace hcount (afterStep_events s (.W l)).1, pinFaultsFrom_failedWrite s.pc hx]
  · obtain ⟨es, htrace, -⟩ := step_records h
    have hnone : ∀ l, .W l .err ∉ es := fun l hl => by
      obtain ⟨-, hm, x, -, hx, -⟩ := step_of_failedWrite h htrace hl
      exact hno l x ⟨hm, expand_of_failedWrite hi h htrace hl, hx⟩
    rw [pinFaults_of_trace hcount htrace, pinFaultsFrom_eq_nil s.pc hnone, List.append_nil]

end Sys2Proof.Machine
end

section
/-! PROOF. Whole commands whose writes may fail (60_exceptions.md R84, R85, R92, R106): every command returns, and what it has recorded
by then. -/

namespace Sys2Proof.Machine

/-! ## One step of a running command -/

/-- The step st of a running command goes on from s to u, and records the one event e, its own but for the mark. -/
structure GoesOn (s u : State) (st : Step) (e : Event) : Prop where
  next : step s = .next u
  mode : u.mode = .transmitting
  cfg : u.cfg = s.cfg
  host : u.host = s.host
  expand : u.expand = s.expand
  pc : u.pc = s.pc + 1
  trace : u.trace = s.trace ++ [e]
  mark : e.unmarked = st.okEvent

/-- A step that does not end the command records one event. -/
theorem stepEvents_of_transmitting {s : State} {st : Step} (h : (s.afterStep st).mode = .transmitting) :
    ∃ e, stepEvents s st = [e] ∧ e.unmarked = st.okEvent := by
  cases st with
  | W l =>
    cases hx : s.pinAnswer with
    | ok => exact ⟨.W l .ok, by simp [stepEvents, hx], rfl⟩
    | err x =>
      cases hpol : s.cfg.faultPolicy with
      | suppress => exact ⟨.W l .err, by simp [stepEvents, hx, hpol], rfl⟩
      | propagate => simp [State.afterStep, State.afterWrite, hx, hpol] at h
  | D n => exact ⟨.D n, rfl, rfl⟩

/-- A running command's step goes on, or is a write that fails under PROPAGATE. -/
theorem runningStep_goesOn_or_fails {s : State} {st : Step} (hrun : s.system = .running) (hi : s.Inv)
    (hm : s.mode = .transmitting) (hst : s.expand[s.pc]? = some st) :
    (∃ u e, GoesOn s u st e) ∨ ∃ l x, st = .W l ∧ s.pinAnswer = .err x ∧ s.cfg.faultPolicy = .propagate := by
  obtain ⟨hmode, -⟩ | ⟨hfail, -⟩ := afterStep_position s st
  · have hgo := hmode.trans hm
    obtain ⟨k, hstep⟩ := (runningStep_performs hrun hi hm).2 st hst
    obtain ⟨hcfg, -, hhost⟩ := afterStep_frame s st
    obtain ⟨e, he, hmark⟩ := stepEvents_of_transmitting hgo
    exact .inl ⟨_, e, hstep, hgo, hcfg, hhost, expand_afterStep hgo, afterStep_pc hgo,
      he ▸ (afterStep_events s st).1, hmark⟩
  · exact .inr hfail

/-- A write that fails under PROPAGATE ends the command with R(ERR), the pin at the drawn level (60_exceptions.md R85). -/
theorem runningStep_of_fault {s : State} {l x : Level} (hrun : s.system = .running) (hi : s.Inv)
    (hm : s.mode = .transmitting) (hpol : s.cfg.faultPolicy = .propagate) (hst : s.expand[s.pc]? = some (.W l))
    (hx : s.pinAnswer = .err x) :
    ∃ t, step s = .next t ∧ t.trace = s.trace ++ [.W l .err, .R .err] ∧ t.pin = x ∧ t.AtRest ∧ t.host = s.host ∧
      t.answers = s.afterPinAnswer.answers ∧ t.cfg = s.cfg ∧ t.system = s.system :=
  ⟨_, (propagateEndsTheCommand s l hrun hi hm hpol hst).1 x hx, rfl, rfl, ⟨rfl, rfl, rfl, rfl, rfl⟩,
    afterPinAnswer_host s, rfl, afterPinAnswer_cfg s, afterPinAnswer_system s⟩

/-! ## The run of a command to its return -/

/-- From s to t a running command performs, in n steps, steps from its position on, whose events are es, and returns with r. Where no
fault can end it, it performs all of them and returns OK. -/
structure Returns (s t : State) (n : Nat) (es : List Event) (r : Result) : Prop where
  run : stepN n s = .next t
  trace : t.trace = s.trace ++ es ++ [.R r]
  atRest : t.AtRest
  host : t.host = s.host
  performed : es.map Event.unmarked <+: (s.expand.drop s.pc).map Step.okEvent
  bound : n ≤ s.expand.length - s.pc + 1
  whole : s.cfg.faultPolicy = .suppress ∨ s.cfg.pinFallible = false →
    n = s.expand.length - s.pc + 1 ∧ r = .ok ∧ es.map Event.unmarked = (s.expand.drop s.pc).map Step.okEvent

/-- The rest of a list from a position where it has an element. -/
theorem drop_eq_cons {α : Type} {as : List α} {i : Nat} {a : α} (h : as[i]? = some a) :
    as.drop i = a :: as.drop (i + 1) := by
  obtain ⟨hlt, rfl⟩ := List.getElem?_eq_some_iff.1 h
  exact List.drop_eq_getElem_cons hlt

theorem stepN_one {s t : State} (h : step s = .next t) : stepN 1 s = .next t := stepN_succ 0 h

/-- At the end of the step list the return is the one step left. -/
theorem Returns.of_end {s : State} (hend : s.pc = s.expand.length) (h : step s = .next s.afterReturn) :
    Returns s s.afterReturn 1 [] .ok where
  run := stepN_one h
  trace := by simp [State.afterReturn]
  atRest := s.afterReturn_atRest
  host := rfl
  performed := List.nil_prefix
  bound := Nat.le_add_left 1 _
  whole _ := by simp [hend]

/-- A fault that ends the command: the failed write is the last step. -/
theorem Returns.of_fault {s : State} {l x : Level} (hrun : s.system = .running) (hi : s.Inv) (hm : s.mode = .transmitting)
    (hpol : s.cfg.faultPolicy = .propagate) (hst : s.expand[s.pc]? = some (.W l)) (hx : s.pinAnswer = .err x) :
    ∃ t, Returns s t 1 [.W l .err] .err := by
  obtain ⟨t, hstep, htrace, -, hrest, hhost, -⟩ := runningStep_of_fault hrun hi hm hpol hst hx
  refine ⟨t, stepN_one hstep, by simp [htrace], hrest, hhost, ?_, Nat.le_add_left 1 _, ?_⟩
  · rw [drop_eq_cons hst]
    exact ⟨_, rfl⟩
  · rintro (hsup | hpin)
    · simp [hpol] at hsup
    · simp [pinAnswer_infallible s hpin] at hx

/-- A step that goes on, before the rest of the run. -/
theorem GoesOn.returns {s u t : State} {n : Nat} {st : Step} {e : Event} {es : List Event} {r : Result}
    (hgo : GoesOn s u st e) (hst : s.expand[s.pc]? = some st) (h : Returns u t n es r) :
    Returns s t (n + 1) (e :: es) r := by
  have hlt := (List.getElem?_eq_some_iff.1 hst).1
  obtain ⟨hrun, htrace, hrest, hhost, hperf, hbound, hwhole⟩ := h
  rw [hgo.expand, hgo.pc] at hperf hbound hwhole
  rw [hgo.cfg] at hwhole
  refine ⟨(stepN_succ n hgo.next).trans hrun, ?_, hrest, hhost.trans hgo.host, ?_, by omega, fun hno => ?_⟩
  · simp [htrace, hgo.trace]
  · rw [drop_eq_cons hst, List.map_cons, List.map_cons, hgo.mark]
    exact List.cons_prefix_cons.2 ⟨rfl, hperf⟩
  · obtain ⟨hn, hr, hes⟩ := hwhole hno
    exact ⟨by omega, hr, by rw [drop_eq_cons hst, List.map_cons, List.map_cons, hgo.mark, hes]⟩

/-- Every running command returns: induction on the number of steps left. -/
theorem exists_returns {s : State} (hrun : s.system = .running) (hi : s.Inv) (hm : s.mode = .transmitting) :
    ∃ t n es r, Returns s t n es r := by
  induction hk : s.expand.length - s.pc generalizing s with
  | zero =>
    have hend : s.pc = s.expand.length := by
      have hle := pc_le_length_expand hi hm
      omega
    exact ⟨_, _, _, _, .of_end hend ((runningStep_performs hrun hi hm).1 hend)⟩
  | succ left ih =>
    have hst : s.expand[s.pc]? = some s.expand[s.pc] := List.getElem?_eq_getElem (by omega)
    obtain ⟨u, e, hgo⟩ | ⟨l, x, hw, hx, hpol⟩ := runningStep_goesOn_or_fails hrun hi hm hst
    · have hleft : u.expand.length - u.pc = left := by
        rw [hgo.expand, hgo.pc]
        omega
      obtain ⟨t, n, es, r, hret⟩ := ih (step_keeps_running hrun hgo.next) (everyStepKeepsThePosition s u hi hgo.next)
        hgo.mode hleft
      exact ⟨t, n + 1, e :: es, r, hgo.returns hst hret⟩
    · obtain ⟨t, hret⟩ := Returns.of_fault hrun hi hm hpol (hw ▸ hst) hx
      exact ⟨t, _, _, _, hret⟩

/-- The events before the return are those of steps, so none of them is a return. -/
theorem Returns.no_return {s t : State} {n : Nat} {es : List Event} {r : Result} (h : Returns s t n es r) (r' : Result) :
    .R r' ∉ es := by
  intro hmem
  obtain ⟨st, -, hst⟩ := List.mem_map.1 (h.performed.subset (List.mem_map_of_mem hmem))
  cases st <;> cases hst

/-- Settles O40: the run to the return, with its bound, and its length where no fault can end the command. -/
theorem everyCommandReturns : Obligations.EveryCommandReturns := by
  intro s hrun hi hm
  obtain ⟨t, n, es, r, hret⟩ := exists_returns hrun hi hm
  exact ⟨n, t, es, r, hret.run, hret.trace, hret.no_return, hret.atRest.1, hret.host, hret.bound,
    fun hno => (hret.whole hno).1⟩

/-! ## Whole commands -/

/-- Settles O51: after the acceptance the command performs its whole step list. -/
theorem suppressedFaultsKeepTheTrace : Obligations.SuppressedFaultsKeepTheTrace := by
  intro s a rest steps hc hp hpol
  obtain ⟨c, p, haccept, hi, rfl⟩ := step_accepts hc hp
  obtain ⟨hrun, -, hhost⟩ := hp
  obtain ⟨t, n, es, r, hret⟩ := exists_returns (s := s.accept c p) hrun hi rfl
  obtain ⟨rfl, rfl, hes⟩ := hret.whole (.inl hpol)
  obtain ⟨hmode, hcmd, hpc, hpat, -⟩ := hret.atRest
  refine ⟨t, es, (stepN_succ _ haccept).trans hret.run, hret.trace, hes, hmode, hcmd, hpc, hpat, ?_⟩
  rw [hret.host, accept_host, hhost, List.tail_cons]

/-- The port's next answer, and the answers behind it. -/
theorem pinAnswer_of_answers {s : State} {a : PinAnswer} {more : List PinAnswer} (hpin : s.cfg.pinFallible = true)
    (ha : s.answers = a :: more) : s.pinAnswer = a ∧ s.afterPinAnswer.answers = more := by
  simp [State.pinAnswer, State.afterPinAnswer, hpin, ha]

/-- Settles O50: the acceptance, the steps before the failing write, none of which fails, and the write that ends the command. -/
theorem propagatedFaultIsPrecise : Obligations.PropagatedFaultIsPrecise := by
  intro s a rest steps k l x more hc hp hpin hpol hst ha
  obtain ⟨c, p, haccept, hi, hexp⟩ := step_accepts hc hp
  obtain ⟨hrun, -, hhost⟩ := hp
  have hlen : (steps.take k).length = k := List.length_take_of_le (List.getElem?_eq_some_iff.1 hst).1.le
  obtain ⟨u, hsteps, hperf, hi'⟩ := stepN_performs (steps.take k) (s := s.accept c p) (more := steps.drop k) (n := 0)
    hrun hi rfl (by rw [hexp]; exact (List.take_append_drop k steps).symm) fun _ => ⟨_, ha⟩
  have hanswers : u.answers = .err x :: more := (List.append_cancel_left (ha.symm.trans (hperf.answers hpin))).symm
  obtain ⟨hx, hmore⟩ := pinAnswer_of_answers (hperf.cfg ▸ hpin) hanswers
  have hst' : u.expand[u.pc]? = some (.W l) := by
    rw [hperf.expand, hexp, hperf.pc, hlen, accept_pc, Nat.zero_add, hst]
  obtain ⟨t, hfail, htrace, hpx, ⟨hmode, hcmd, hpc, hpat, hidx⟩, hthost, htanswers, hcfg, hsystem⟩ :=
    runningStep_of_fault (hperf.system.trans hrun) hi' hperf.mode (hperf.cfg ▸ hpol) hst' hx
  refine ⟨t, ?_, ?_, hpx, hmode, hcmd, hpc, hpat, hidx, ?_, htanswers.trans hmore, hcfg.trans hperf.cfg,
    hsystem.trans (hperf.system.trans hrun)⟩
  · rw [hlen] at hsteps
    rw [stepN_succ _ haccept, stepN_add k 1 _ _ hsteps, stepN_one hfail]
  · rw [htrace, hperf.trace, accept_trace]
  · rw [hthost, hperf.host, accept_host, hhost, List.tail_cons]

end Sys2Proof.Machine
end

section
/-! PROOF. Construction and bring-up (70_reset_and_hazards.md R108 to R113). -/

namespace Sys2Proof.Machine

/-- Settles O9. -/
theorem constructionState : Obligations.ConstructionState :=
  ⟨fun _ _ => ⟨rfl, rfl, rfl, rfl, rfl, rfl, rfl⟩, rfl, rfl, rfl, rfl, rfl, rfl, rfl⟩

/-! ## What a list of steps makes of bring-up -/

/-- The success of a step of bring-up. -/
def BootAct.succeeds : BootAct → Bool
  | .board ok => ok
  | .acquire ok => ok
  | .delay ok => ok
  | .pin ok => ok

/-- No step fails, and the factory is called at most once, the calls before included (70_reset_and_hazards.md R113, 60_exceptions.md
R88). -/
def BootProgress.Allows (b : BootProgress) (acts : List BootAct) : Prop :=
  (∀ a ∈ acts, a.succeeds = true) ∧ acts.count (.acquire true) + b.handles.toNat ≤ 1

/-- The progress with the steps of the list done too. -/
def BootProgress.after (b : BootProgress) (acts : List BootAct) : BootProgress where
  board := b.board || decide (.board true ∈ acts)
  handles := b.handles || decide (.acquire true ∈ acts)
  delay := b.delay || decide (.delay true ∈ acts)
  pin := b.pin || decide (.pin true ∈ acts)

@[simp] theorem BootProgress.after_nil (b : BootProgress) : b.after [] = b := by simp [BootProgress.after]

theorem BootProgress.after_cons (b : BootProgress) (a : BootAct) (acts : List BootAct) :
    b.after (a :: acts) = (b.after [a]).after acts := by
  simp [BootProgress.after, Bool.or_assoc]

theorem BootProgress.allows_nil (b : BootProgress) : b.Allows [] := by
  simpa [BootProgress.Allows] using Bool.toNat_le b.handles

/-- A call of the factory counts from the next step on. -/
theorem handles_after_singleton {b : BootProgress} {a : BootAct} (h : [a].count (.acquire true) + b.handles.toNat ≤ 1) :
    (b.after [a]).handles.toNat = [a].count (.acquire true) + b.handles.toNat := by
  by_cases ha : a = .acquire true
  · subst ha
    have hb : b.handles = false := by simpa using h
    simp [BootProgress.after, hb]
  · simp [BootProgress.after, ha, Ne.symm ha]

theorem BootProgress.allows_cons (b : BootProgress) (a : BootAct) (acts : List BootAct) :
    b.Allows (a :: acts) ↔ b.Allows [a] ∧ (b.after [a]).Allows acts := by
  have hcount : (a :: acts).count (.acquire true) = acts.count (.acquire true) + [a].count (.acquire true) := by
    simp [List.count_cons]
  constructor
  · rintro ⟨hok, hcalls⟩
    have hone : [a].count (.acquire true) + b.handles.toNat ≤ 1 := by omega
    refine ⟨⟨by simpa using hok a List.mem_cons_self, hone⟩, fun x hx => hok x (List.mem_cons_of_mem a hx), ?_⟩
    rw [handles_after_singleton hone]
    omega
  · rintro ⟨⟨ha, hone⟩, hok, hcalls⟩
    rw [handles_after_singleton hone] at hcalls
    exact ⟨List.forall_mem_cons.2 ⟨ha a List.mem_cons_self, hok⟩, by omega⟩

theorem BootProgress.allows_singleton_iff (b : BootProgress) (a : BootAct) :
    b.Allows [a] ↔ a.succeeds = true ∧ (a = .acquire true → b.handles = false) := by
  by_cases ha : a = .acquire true
  · cases hb : b.handles <;> simp [BootProgress.Allows, ha, hb]
  · simpa [BootProgress.Allows, ha] using fun _ => Bool.toNat_le b.handles

/-- An allowed step of bring-up is done. -/
theorem act_of_allows {b : BootProgress} {a : BootAct} (h : b.Allows [a]) : b.act a = .ok (b.after [a]) := by
  obtain ⟨hok, hfirst⟩ := (BootProgress.allows_singleton_iff b a).1 h
  cases a with
  | board ok => obtain rfl : ok = true := hok; simp [BootProgress.act, BootProgress.after]
  | acquire ok => obtain rfl : ok = true := hok; simp [BootProgress.act, BootProgress.after, hfirst]
  | delay ok => obtain rfl : ok = true := hok; simp [BootProgress.act, BootProgress.after]
  | pin ok => obtain rfl : ok = true := hok; simp [BootProgress.act, BootProgress.after]

/-- A failure is the peripheral-acquisition fault, if it is not a second call of the factory (70_reset_and_hazards.md R113). -/
theorem act_of_failure {b : BootProgress} {a : BootAct} (ha : a.succeeds = false)
    (hfirst : a = .acquire false → b.handles = false) : b.act a = .error .peripheralAcquisition := by
  cases a with
  | board ok => obtain rfl : ok = false := ha; rfl
  | acquire ok => obtain rfl : ok = false := ha; simp [BootProgress.act, hfirst]
  | delay ok => obtain rfl : ok = false := ha; rfl
  | pin ok => obtain rfl : ok = false := ha; rfl

/-- A step of bring-up that is not allowed halts: it is a second call of the factory, or a failure. -/
theorem act_of_not_allows {b : BootProgress} {a : BootAct} (h : ¬ b.Allows [a]) : ∃ f, b.act a = .error f := by
  by_cases hsecond : b.handles = true ∧ ∃ ok, a = .acquire ok
  · obtain ⟨hb, ok, rfl⟩ := hsecond
    exact ⟨.doubleAcquisition, by simp [BootProgress.act, hb]⟩
  · have hfirst (ok : Bool) (ha : a = .acquire ok) : b.handles = false :=
      Bool.eq_false_iff.2 fun hb => hsecond ⟨hb, ok, ha⟩
    have hfail : a.succeeds = false :=
      Bool.eq_false_iff.2 fun hok => h ((BootProgress.allows_singleton_iff b a).2 ⟨hok, hfirst true⟩)
    exact ⟨.peripheralAcquisition, act_of_failure hfail (hfirst false)⟩

/-! ## Runs of bring-up -/

/-- Allowed steps are taken one by one, and change the progress only: induction on their list. -/
theorem stepN_booting {s : State} {b : BootProgress} {acts rest : List BootAct}
    (hs : s.system = .booting b (acts ++ rest)) (h : b.Allows acts) :
    stepN acts.length s = .next (s.setSystem (.booting (b.after acts) rest)) := by
  induction acts generalizing s b with
  | nil => rw [BootProgress.after_nil, ← List.nil_append rest, ← hs]; rfl
  | cons a acts ih =>
    obtain ⟨ha, hacts⟩ := (BootProgress.allows_cons b a acts).1 h
    have hstep : step s = .next (s.setSystem (.booting (b.after [a]) (acts ++ rest))) := by
      rw [step_booting s b _ hs, List.cons_append, BootProgress.next, act_of_allows ha]
    rw [List.length_cons, stepN_succ _ hstep, ih rfl hacts, BootProgress.after_cons b a acts]
    rfl

/-- A halted system has no further steps, so none that constructs a block. -/
theorem not_running_of_halted {n : Nat} {s t : State} {f : BringUpFault} (hs : s.system = .halted f)
    (h : stepN n s = .next t) : t.system ≠ .running := by
  cases n with
  | zero =>
    obtain rfl : s = t := by simpa [stepN] using h
    simp [hs]
  | succ n => simp [stepN, step_halted hs] at h

/-- A running system comes only from allowed steps with which all of bring-up is done: induction on the number of steps. -/
theorem allows_of_stepN_running {n : Nat} {s t : State} {b : BootProgress} {acts : List BootAct}
    (hs : s.system = .booting b acts) (h : stepN n s = .next t) (ht : t.system = .running) :
    b.Allows acts ∧ (b.after acts).done = true := by
  induction n generalizing s b acts with
  | zero =>
    obtain rfl : s = t := by simpa [stepN] using h
    simp [hs] at ht
  | succ n ih =>
    rw [stepN_succ n (step_booting s b acts hs)] at h
    cases acts with
    | nil =>
      by_cases hdone : b.done = true
      · exact ⟨BootProgress.allows_nil b, by simpa using hdone⟩
      · exact ih (by simp [BootProgress.next, hdone]) h
    | cons a acts =>
      by_cases ha : b.Allows [a]
      · rw [BootProgress.next, act_of_allows ha] at h
        obtain ⟨hacts, hdone⟩ := ih rfl h
        exact ⟨(BootProgress.allows_cons b a acts).2 ⟨ha, hacts⟩, BootProgress.after_cons b a acts ▸ hdone⟩
      · obtain ⟨f, hf⟩ := act_of_not_allows ha
        rw [BootProgress.next, hf] at h
        exact absurd ht (not_running_of_halted rfl h)

/-! ## From power-on -/

/-- From power-on the allowed lists are those without a failure and with at most one call of the factory. -/
theorem powerOn_allows_iff (acts : List BootAct) :
    BootProgress.powerOn.Allows acts ↔ (∀ a ∈ acts, a.succeeds = true) ∧ acts.count (.acquire true) ≤ 1 := Iff.rfl

theorem done_after_powerOn_iff (acts : List BootAct) :
    (BootProgress.powerOn.after acts).done = true ↔
      .board true ∈ acts ∧ .acquire true ∈ acts ∧ .delay true ∈ acts ∧ .pin true ∈ acts := by
  simp [BootProgress.done, BootProgress.after, BootProgress.powerOn, and_assoc]

theorem BootAct.succeeds_iff (a : BootAct) :
    a.succeeds = true ↔ a ≠ .board false ∧ a ≠ .acquire false ∧ a ≠ .delay false ∧ a ≠ .pin false := by
  cases a <;> simp [BootAct.succeeds]

/-- Settles O12: the successful steps are allowed ones, and the failing one halts with the peripheral-acquisition fault, since a failing
call of the factory is the first one. -/
theorem failedBringUpHalts : Obligations.FailedBringUpHalts := by
  intro s before after a hs hbefore hcalls ha
  refine ⟨?_, step_halted (f := .peripheralAcquisition) rfl⟩
  have hallowed : BootProgress.powerOn.Allows before := by
    refine (powerOn_allows_iff before).2 ⟨fun x hx => ?_, by omega⟩
    obtain rfl | rfl | rfl | rfl := hbefore x hx <;> rfl
  have hfail : a.succeeds = false := by obtain rfl | rfl | rfl | rfl := ha <;> rfl
  have hfirst : a = .acquire false → (BootProgress.powerOn.after before).handles = false := by
    rintro rfl
    have hnone : .acquire true ∉ before := List.count_eq_zero.1 (by simpa using hcalls)
    simpa [BootProgress.after, BootProgress.powerOn] using hnone
  rw [stepN_add _ 1 _ _ (stepN_booting hs hallowed), stepN_one (step_booting _ _ _ rfl), BootProgress.next,
    act_of_failure hfail hfirst]
  rfl

/-- Settles O13: a running system comes only from allowed steps that do all of bring-up, and from these it comes with the construction. -/
theorem constructionNeedsBringUp : Obligations.ConstructionNeedsBringUp := by
  intro s acts hs
  refine ⟨fun n t hrun ht => ?_, fun hboard hdelay hpin hcall nboard ndelay npin ncall => ⟨?_, ?_⟩⟩
  · obtain ⟨⟨hok, hcalls⟩, hdone⟩ := allows_of_stepN_running hs hrun ht
    obtain ⟨hboard, hcall, hdelay, hpin⟩ := (done_after_powerOn_iff acts).1 hdone
    have hpos : 0 < acts.count (.acquire true) := List.count_pos_iff.2 hcall
    have hno {a : BootAct} (ha : a.succeeds = false) : a ∉ acts := fun hmem => by simp [hok a hmem] at ha
    exact ⟨hboard, hdelay, hpin, Nat.le_antisymm hcalls hpos, hno rfl, hno rfl, hno rfl, hno rfl⟩
  · have hallowed : BootProgress.powerOn.Allows acts := by
      refine (powerOn_allows_iff acts).2 ⟨fun a ha => (BootAct.succeeds_iff a).2 ⟨?_, ?_, ?_, ?_⟩, hcall.le⟩
      all_goals rintro rfl; contradiction
    have hdone : (BootProgress.powerOn.after acts).done = true :=
      (done_after_powerOn_iff acts).2 ⟨hboard, List.count_pos_iff.1 (by omega), hdelay, hpin⟩
    rw [← List.append_nil acts] at hs
    rw [stepN_add _ 1 _ _ (stepN_booting hs hallowed), stepN_one (step_booting _ _ _ rfl), BootProgress.next, if_pos hdone]
    rfl
  · rintro cfg l rfl
    rfl

end Sys2Proof.Machine
end

section
/-! PROOF. Real and nominal times (70_reset_and_hazards.md R114, R117). -/

namespace Sys2Proof.Machine

/-! ## The real length of a wait -/

theorem waitUs_wave (s : State) (n : Micros) :
    (s.waitUs n).wave = s.wave ++ [.wait s.pin n (n.toNat + s.slack)] := by
  simp [State.waitUs]

/-- Settles O59: a slack within the bound is the one that the wait takes. -/
theorem everyBoundedLengthCanBeDrawn : Obligations.EveryBoundedLengthCanBeDrawn := by
  intro s n t more hlo hhi
  have hslack : ({ s with slacks := (t - n.toNat) :: more } : State).slack = t - n.toNat :=
    boundSlack_eq_self _ _ fun m hm => Nat.sub_le_iff_le_add'.2 (hhi m hm)
  rw [waitUs_wave, hslack, Nat.add_sub_cancel' hlo]

/-- A wait really lasts within its bounds, whatever its slack. -/
theorem wait_withinBounds (s : State) (l : Level) (n : Micros) :
    (Span.wait l n (n.toNat + s.slack)).withinBounds s.cfg := by
  refine ⟨Nat.le_add_right _ _, fun m hm => Nat.add_le_add_left ?_ _⟩
  rw [State.slack, hm]
  exact boundSlack_le m _

/-- A step of a step list adds to the waveform at most its own wait. -/
theorem afterStep_span {s : State} {st : Step} {x : Span} (h : x ∈ (s.afterStep st).wave) :
    x ∈ s.wave ∨ x.withinBounds s.cfg := by
  cases st with
  | W l =>
    left
    simp only [State.afterStep, State.afterWrite] at h
    cases ha : s.pinAnswer with
    | ok => simpa [ha] using h
    | err y => cases hpol : s.cfg.faultPolicy <;> simpa [ha, hpol] using h
  | D n =>
    obtain hold | hnew := List.mem_append.1 h
    · exact .inl hold
    · obtain rfl := List.mem_singleton.1 hnew
      exact .inr (wait_withinBounds s s.pin n)

/-- A span that a step adds to the waveform is within its bounds: a wait by its slack, and the host's time has none. -/
theorem step_span {s t : State} (h : step s = .next t) {x : Span} (hx : x ∈ t.wave) :
    x ∈ s.wave ∨ x.withinBounds s.cfg := by
  obtain ⟨-, hmove⟩ | ⟨b, acts, -, rfl⟩ := step_moves s t h
  · cases hmove with
    | stay => exact .inl hx
    | accept => exact .inl hx
    | pause us =>
      obtain hold | hnew := List.mem_append.1 hx
      · exact .inl hold
      · obtain rfl := List.mem_singleton.1 hnew
        exact .inr trivial
    | finish => exact .inl hx
    | work st => exact afterStep_span hx
  · exact .inl hx

/-- Settles O58: the configuration, and with it the bounds, stays. -/
theorem waitsKeepTheirBounds : Obligations.WaitsKeepTheirBounds := by
  intro s t hs h x hx
  rw [step_keeps_cfg h]
  exact (step_span h hx).elim (hs x) id

/-! ## The reference frame -/

/-- The data symbols of the source's frame (30_encoding.md R55). -/
theorem countClass_referenceFrame : countClass .one referenceFrame = 15 ∧ countClass .zero referenceFrame = 26 := by
  decide

/-- The frame's last pin write leaves LOW for the gap. -/
theorem pinAfter_referenceFrame (cfg : Configuration) (l : Level) : pinAfter l (patternSteps cfg referenceFrame) = .low := by
  rw [pinAfter_patternSteps, if_neg (by decide)]

/-- Settles O30: the lengths and times of any pattern at the frame's counts of data symbols. -/
theorem referenceFrameFigures : Obligations.ReferenceFrameFigures := by
  obtain ⟨hone, hzero⟩ := countClass_referenceFrame
  obtain ⟨-, -, hlength⟩ := stepListLengths Configuration.reference
  obtain ⟨-, htotal, hlevels⟩ := nominalTimesOfSend Configuration.reference referenceFrame rfl rfl rfl rfl rfl
  obtain ⟨hhigh, hlow⟩ := hlevels .low
  have hsend (want : Level) : levelTime want .low (sendSteps Configuration.reference referenceFrame) =
      levelTime want .low (patternSteps Configuration.reference referenceFrame) +
        levelTime want .low (gapSteps Configuration.reference) := by
    rw [sendSteps, levelTime_append, pinAfter_referenceFrame]
  refine ⟨?_, ?_, ?_, ?_⟩
  · rw [hlength, hone, hzero]
  · rw [hsend, hhigh, hone, hzero]; rfl
  · rw [hsend, hlow, hone, hzero]; rfl
  · rw [htotal, hone, hzero]

end Sys2Proof.Machine
end

section
/-! PROOF. The byte front end (30_encoding.md R51): a pattern's UTF-8 bytes have the data symbols of the pattern. -/

namespace Sys2Proof.Machine

/-! ## The symbol of a byte -/

/-- Every byte is a code point, and the symbol of the byte is the one it numbers. -/
@[simp] theorem toNat_byteSymbol (b : Byte) : (byteSymbol b).toNat = b.toNat := by
  have hb := b.isLt
  have hvalid : b.toNat.isValidChar := by
    simp only [Nat.isValidChar]
    omega
  rw [byteSymbol, Char.toNat_ofNat, if_pos hvalid]

/-- The class of a byte by its own value (30_encoding.md R51). -/
theorem symClass_byteSymbol (b : Byte) :
    symClass (byteSymbol b) = if b = 0x31 then .one else if b = 0x30 then .zero else .sep := by
  simp [symClass, ← BitVec.toNat_inj]

/-- A symbol from 0x80 on is a separator. -/
theorem isDataSymbol_of_ge {c : Char} (h : 0x80 ≤ c.toNat) : isDataSymbol c = false := by
  simp only [isDataSymbol, Bool.or_eq_false_iff, beq_eq_false_iff_ne]
  omega

/-! ## UTF-8 -/

theorem byteSymbol_of_ascii {c : Char} (h : c.toNat < 0x80) : byteSymbol (BitVec.ofNat 8 c.toNat) = c := by
  rw [byteSymbol, BitVec.toNat_ofNat, Nat.mod_eq_of_lt (by omega), Char.ofNat_toNat]

/-- Beyond ASCII every byte of a symbol, leading or trailing, has its high bit set. -/
theorem le_of_mem_utf8 {c : Char} {b : Byte} (h : 0x80 ≤ c.toNat) (hb : b ∈ utf8 c) : 0x80 ≤ b.toNat := by
  have hvalid : c.toNat.isValidChar := c.valid
  simp only [Nat.isValidChar] at hvalid
  unfold utf8 at hb
  split_ifs at hb
  · omega
  all_goals
    simp only [List.mem_cons, List.not_mem_nil, or_false] at hb
    rcases hb with rfl | rfl | rfl | rfl
    all_goals simp only [BitVec.toNat_ofNat]; omega

/-- The UTF-8 bytes of a symbol have its data symbol, if it is one, and no other. -/
theorem dataSymbols_utf8 (c : Char) : dataSymbols ((utf8 c).map byteSymbol) = dataSymbols [c] := by
  by_cases hc : c.toNat < 0x80
  · rw [utf8, if_pos hc, List.map_singleton, byteSymbol_of_ascii hc]
  · have hge : 0x80 ≤ c.toNat := by omega
    have hbytes : dataSymbols ((utf8 c).map byteSymbol) = [] := by
      simp only [dataSymbols, List.filter_eq_nil_iff, List.forall_mem_map]
      intro b hb
      simp [isDataSymbol_of_ge (c := byteSymbol b) (by simpa using le_of_mem_utf8 hge hb)]
    rw [hbytes, dataSymbols_cons, isDataSymbol_of_ge hge]
    rfl

theorem dataSymbols_append (p q : List Char) : dataSymbols (p ++ q) = dataSymbols p ++ dataSymbols q :=
  List.filter_append p q

/-- Induction on the pattern: its bytes are those of its symbols, one after another. -/
theorem dataSymbols_utf8Pattern (p : List Char) : dataSymbols ((utf8Pattern p).map byteSymbol) = dataSymbols p := by
  induction p with
  | nil => rfl
  | cons c p ih =>
    calc dataSymbols ((utf8Pattern (c :: p)).map byteSymbol)
        = dataSymbols ((utf8 c).map byteSymbol) ++ dataSymbols ((utf8Pattern p).map byteSymbol) := by
          rw [← dataSymbols_append, ← List.map_append, utf8Pattern, List.flatMap_cons, utf8Pattern]
      _ = dataSymbols [c] ++ dataSymbols p := by rw [dataSymbols_utf8, ih]
      _ = dataSymbols (c :: p) := (dataSymbols_append [c] p).symm

/-- Settles O7: the bytes decode to a pattern with the same data symbols, which decide the step list. -/
theorem byteFrontEndGivesTheSameSteps : Obligations.ByteFrontEndGivesTheSameSteps :=
  ⟨symClass_byteSymbol, fun p =>
    ⟨(utf8Pattern p).map byteSymbol, rfl, dataSymbols_utf8Pattern p,
      fun cfg => sendSteps_congr cfg (dataSymbols_utf8Pattern p)⟩⟩

end Sys2Proof.Machine
end

section
/-! PROOF. What a step runs (40_commands.md section 2): the host's act of an idle block, the command in progress, the symbol at the
symbol index; and the meanings that run nothing. -/

namespace Sys2Proof.Machine

/-! ## An idle block -/

theorem step_idle {s : State} (hrun : s.system = .running) (hm : s.mode = .idle) : step s = hostTransition s := by
  simp [step, transition, hrun, hm]

/-- Settles O19: the two acts of the host that are no command. -/
theorem idleBlockWaitsForItsHost : Obligations.IdleBlockWaitsForItsHost := by
  refine ⟨fun s hrun hm hh => ?_, fun s us rest ⟨hrun, hm, hh⟩ => ?_⟩
  · rw [step_idle hrun hm, hostTransition, hh]
  · rw [step_idle hrun hm, hostTransition, hh]
    simp [State.addSpan, State.popHost, hh]

/-- Containers of which one holds no scalar value are rejected with the name of such a one (30_encoding.md R48): the first. -/
theorem decodeScalars_of_unformable {ws : List Container} (h : ∃ w ∈ ws, Container.isSymbol w = false) :
    ∃ w ∈ ws, Container.isSymbol w = false ∧ decodeScalars ws = .error (.notAScalarValue w) := by
  induction ws with
  | nil => simp at h
  | cons w ws ih =>
    by_cases hw : Container.isSymbol w = true
    · obtain ⟨x, hx, hbad, hdec⟩ := ih (by simpa [hw] using h)
      exact ⟨x, List.mem_cons_of_mem w hx, hbad, by simp [decodeScalars, symbolOf, hw, hdec]⟩
    · exact ⟨w, List.mem_cons_self, by simpa using hw, by simp [decodeScalars, symbolOf, hw]⟩

/-- Settles O8: the decoder rejects the command, and an idle block refuses what the decoder rejects. -/
theorem unformableSymbolIsRefused : Obligations.UnformableSymbolIsRefused := by
  intro s ws rest ⟨hrun, hm, hh⟩ hbad
  obtain ⟨w, hw, hnot, hdec⟩ := decodeScalars_of_unformable hbad
  refine ⟨w, hw, hnot, ?_⟩
  simp [step_idle hrun hm, hostTransition, hh, decode, decodeOperand, hdec]

/-! ## The command and the symbol in progress -/

theorem step_eq_exec_send {s : State} (hrun : s.system = .running) (hs : s.sending = true) :
    step s = exec (.send s.pattern) s := by
  obtain ⟨hm, hc⟩ := (sending_iff s).1 hs
  simp [step, transition, hrun, hm, hc]

/-- At a symbol, at least one symbol is left to the loop of SEND. -/
theorem step_at_symbol {s : State} {c : Char} (hrun : s.system = .running) (hs : s.sending = true)
    (hr : s.pattern[s.symIdx]? = some c) : step s = sendLoop (s.pattern.length - (s.symIdx + 1) + 1) s := by
  obtain ⟨hm, hc⟩ := (sending_iff s).1 hs
  have hlt : s.symIdx < s.pattern.length := (List.getElem?_eq_some_iff.1 hr).1
  rw [step_send s hrun hm hc]
  congr 1
  omega

theorem exec_symInstr_of_data {c : Char} (s : State) (hc : symClass c ≠ .sep) :
    exec (symInstr c) s = s.symbolStep (symClass c) := by
  cases hk : symClass c with
  | one => rw [symInstr, hk, exec_symOne]
  | zero => rw [symInstr, hk, exec_symZero]
  | sep => exact absurd hk hc

/-- The step at a data symbol is the meaning of the symbol's instruction. -/
theorem step_at_data {s : State} {c : Char} (hrun : s.system = .running) (hs : s.sending = true)
    (hr : s.pattern[s.symIdx]? = some c) (hc : symClass c ≠ .sep) : step s = exec (symInstr c) s := by
  rw [step_at_symbol hrun hs hr, sendLoop_succ_of_data _ hr hc, exec_symInstr_of_data s hc]

/-- The step at a separator is the step behind it (41_symbols.md R79). -/
theorem step_at_separator {s : State} {c : Char} (hrun : s.system = .running) (hs : s.sending = true)
    (hr : s.pattern[s.symIdx]? = some c) (hc : symClass c = .sep) : step s = step s.nextSymbol := by
  obtain ⟨hm, hcmd⟩ := (sending_iff s).1 hs
  rw [step_at_symbol hrun hs hr, sendLoop_succ_of_sep _ hs hr hc, step_send s.nextSymbol hrun hm hcmd]
  rfl

theorem symClass_of_symInstr_eq_sep {c d : Char} (h : symInstr c = .symSep d) : symClass c = .sep := by
  cases hk : symClass c with
  | one => simp [symInstr, hk] at h
  | zero => simp [symInstr, hk] at h
  | sep => rfl

/-- Settles O15: the decoder reads a symbol's own instruction from its container. -/
theorem stepRunsTheDecodedInstruction : Obligations.StepRunsTheDecodedInstruction := by
  refine ⟨fun s c rest i hp hd => step_presented hp hd, fun s hrun hm hc => ?_,
    fun s hrun hs => ⟨step_eq_exec_send hrun hs, fun c i hr hd => ?_⟩⟩
  · rw [step_start s hrun hm hc, exec_start_of_running hm hc]
  · obtain rfl : symInstr c = i := by simpa using hd
    refine ⟨fun hdata => step_at_data hrun hs hr fun hsep => ?_, fun hsep => ?_⟩
    · simp [symInstr_of_sep hsep] at hdata
    · rw [hsep]
      exact ⟨s.nextSymbol, exec_symSep_of_sending c hs,
        step_at_separator hrun hs hr (symClass_of_symInstr_eq_sep hsep)⟩

/-! ## A placed word -/

/-- A placed command stands at the host port of an idle block (log 9). -/
theorem withCode_cmd_presented (s : State) (c : CmdWord) : (s.withCode (.cmd c)).presented (.cmd c) s.host :=
  ⟨rfl, rfl, rfl⟩

/-- A placed symbol is the next one of a SEND (log 9). -/
theorem withCode_sym_sending {w : Container} {c : Char} (s : State) (hw : symbolOf w = some c) :
    (s.withCode (.sym w)).system = .running ∧ (s.withCode (.sym w)).sending = true ∧
      (s.withCode (.sym w)).pattern[(s.withCode (.sym w)).symIdx]? = some c := by
  simp [State.withCode, hw, State.sending]

/-- A placed data symbol is run by the next step. -/
theorem step_withCode_data {w : Container} {c : Char} (s : State) (hw : symbolOf w = some c) (hc : symClass c ≠ .sep) :
    step (s.withCode (.sym w)) = exec (symInstr c) (s.withCode (.sym w)) := by
  obtain ⟨hrun, hs, hr⟩ := withCode_sym_sending s hw
  exact step_at_data hrun hs hr hc

/-- Settles O16: each word is placed as a command or as a symbol, and what is placed runs. -/
theorem placedWordRuns : Obligations.PlacedWordRuns := by
  have hspace : symbolOf 0x20#32 = some ' ' := by decide
  obtain ⟨hrun, hs, hr⟩ := withCode_sym_sending State.reset hspace
  exact ⟨step_presented (withCode_cmd_presented State.reset ⟨0, .scalars []⟩) rfl,
    step_presented (withCode_cmd_presented State.reset ⟨1, .scalars []⟩) rfl,
    step_withCode_data (w := 0x31#32) (c := '1') State.reset (by decide) (by decide),
    step_withCode_data (w := 0x30#32) (c := '0') State.reset (by decide) (by decide),
    _, exec_symSep_of_sending ' ' hs, step_at_separator hrun hs hr (by decide)⟩

/-! ## The meanings that run nothing -/

/-- Settles O18: a running block's command runs only as itself. -/
theorem otherCommandIsHeld : Obligations.OtherCommandIsHeld := by
  refine fun s hm => ⟨fun hc => ?_, fun p hc => ?_⟩
  · simp [exec, execStart, hm, hc]
  · simp [exec, execSend, hm, hc]

theorem symbolStep_of_not_sending {s : State} (k : SymClass) (hs : s.sending = false) :
    s.symbolStep k = .refused .symbolOutsideSend := by
  simp [State.symbolStep, hs]

/-- Settles O25: the data symbols' common step and the separator ask for a SEND in progress. -/
theorem symbolOutsideSendIsRefused : Obligations.SymbolOutsideSendIsRefused := by
  refine fun s hs => ⟨?_, ?_, fun c => ?_⟩
  · rw [exec_symOne, symbolStep_of_not_sending .one hs]
  · rw [exec_symZero, symbolStep_of_not_sending .zero hs]
  · simp [exec, execSymSep, hs]

/-! ## Construction -/

theorem construct_atRest (cfg : Configuration) (l : Level) : (State.construct cfg l).AtRest := ⟨rfl, rfl, rfl, rfl, rfl⟩

/-- Settles O36: a constructed block is at rest. -/
theorem constructionMeetsThePosition : Obligations.ConstructionMeetsThePosition :=
  fun cfg l => ⟨(construct_atRest cfg l).inv, (construct_atRest Configuration.reference .low).inv⟩

end Sys2Proof.Machine
end
